-- ==== Sys2Proof/Word.lean ====
section
/-! DEFINITION. The word types of the MPE: bytes and the widths of its registers (spec/10_state.md). -/

namespace Sys2Proof

/-- A byte: "8 bits, an unsigned integer 0..255" (R8). -/
abbrev Byte := BitVec 8

/-- The width of `CFG`, `STATUS`, `CRCOUT`, `DIVR` and the CRC register (R22, R39). -/
abbrev Half := BitVec 16

/-- The width of `VAL0`..`VAL3` and of the read port (R22, R40). -/
abbrev Word := BitVec 32

end Sys2Proof
end

