-- ==== Sys2Proof/Config.lean ====
section
/-! DEFINITION. The MPE's parameters as named constants (R6), its command catalogue (R106, R217), and the free value `draw32()`
(R11). The requester calls the literals "unaudited"; every other file names them and writes none of them out. -/

namespace Sys2Proof

/-- The seven measurement families (R106, glossary "Family"). -/
inductive Family where
  | voltage
  | current
  | realPower
  | reactivePower
  | apparentPower
  | powerFactor
  | energy
deriving DecidableEq, Repr

/-- How a family's payload holds its registers: the 3-byte layout of R108 with its mask, or the 4-byte layout of R109. -/
inductive Layout where
  | threeByte (mask : Byte)
  | fourByte
deriving DecidableEq, Repr

/-- What the source calls a family's slots by (R252). Voltage and current have no labels (spec/90_conflicts.md C2). -/
inductive SlotLabel where
  | total
  | phaseA
  | phaseB
  | phaseC
  | forwardActive
  | reverseActive
  | forwardReactive
  | reverseReactive
deriving DecidableEq, Repr

namespace Config

/-- `BUF_MAX`: byte capacity of a request frame and of a response. -/
def bufMax : Nat := 32
/-- `CMD_MAX`: most command bytes in a request. -/
def cmdMax : Nat := 29
/-- `RD_MAX`: `max_len` of the single channel read of an attempt. -/
def rdMax : Nat := 32
/-- `RSP_MIN`: shortest response accepted. -/
def rspMin : Nat := 4
/-- The length of a status-only response (R104), the one length check (d) of R156 looks at. -/
def statusOnlyLen : Nat := 4
/-- `MAX_ATTEMPTS`: attempts per transaction, the first included (spec/90_conflicts.md C7). -/
def maxAttempts : Nat := 16
/-- `BACKOFF_UNIT` in milliseconds. -/
def backoffUnitMs : Nat := 50
/-- `CH_TIMEOUT` in milliseconds: the channel's parameter, which no rule of the engine reads (R6, R285). -/
def chTimeoutMs : Nat := 500
/-- `BAUD`: the channel's parameter, which no rule of the engine reads (R6). -/
def baud : Nat := 9600
/-- `CRC_INIT`. -/
def crcInit : Half := 0xFFFF
/-- `CRC_XOROUT`: "no final XOR". -/
def crcXorOut : Half := 0x0000
/-- `CRC_POLY_R`, the reflected polynomial. PRESUMED (log 15): the spec marks it "from general knowledge, not in source" (K1). -/
def crcPolyR : Half := 0xA001
/-- `DADDR_RESET`. -/
def daddrReset : Byte := 0x00
/-- `MASK_VC`: voltage and current. -/
def maskVC : Byte := 0xFF
/-- `MASK_P`: the four power families. -/
def maskP : Byte := 0x3F
/-- `DIV_V`. -/
def divV : Half := 100
/-- `DIV_C`. -/
def divC : Half := 1000
/-- `DIV_P`. -/
def divP : Half := 100
/-- `DIV_PF`. -/
def divPF : Half := 1000
/-- `DIV_E`. -/
def divE : Half := 1
/-- `LEN_VC`. -/
def lenVC : Byte := 9
/-- `LEN_P`. -/
def lenP : Byte := 12
/-- `LEN_E`. -/
def lenE : Byte := 16
/-- `SENTINEL`: the energy register value normalised to 0. -/
def sentinel : Word := 0xFFFFFFFF
/-- `OPEN_CMD`: 0x01 repeated 8 times. -/
def openCmd : List Byte := List.replicate 8 0x01
/-- `CLOSE_CMD`. -/
def closeCmd : List Byte := [0x02]

/-- The command bytes of a family (R106). -/
def familyCmd : Family → List Byte
  | .voltage => [0x08, 0x16, 0x11]
  | .current => [0x08, 0x16, 0x21]
  | .realPower => [0x08, 0x16, 0x00]
  | .reactivePower => [0x08, 0x16, 0x04]
  | .apparentPower => [0x08, 0x16, 0x08]
  | .powerFactor => [0x08, 0x16, 0x30]
  | .energy => [0x05, 0x00, 0x00]

/-- The layout and mask of a family (R106, R217; spec/90_conflicts.md C3). -/
def familyLayout : Family → Layout
  | .voltage => .threeByte maskVC
  | .current => .threeByte maskVC
  | .realPower => .threeByte maskP
  | .reactivePower => .threeByte maskP
  | .apparentPower => .threeByte maskP
  | .powerFactor => .threeByte maskP
  | .energy => .fourByte

/-- The divisor of a family (R106). -/
def familyDivisor : Family → Half
  | .voltage => divV
  | .current => divC
  | .realPower => divP
  | .reactivePower => divP
  | .apparentPower => divP
  | .powerFactor => divPF
  | .energy => divE

/-- The expected payload length of a family (R106). -/
def familyLength : Family → Byte
  | .voltage => lenVC
  | .current => lenVC
  | .realPower => lenP
  | .reactivePower => lenP
  | .apparentPower => lenP
  | .powerFactor => lenP
  | .energy => lenE

/-- The labels of a family's slots 0..3 in Measurement Set order (R252); none for voltage and current (C2). -/
def familyLabels : Family → Option (SlotLabel × SlotLabel × SlotLabel × SlotLabel)
  | .voltage => none
  | .current => none
  | .realPower => some (.total, .phaseA, .phaseB, .phaseC)
  | .reactivePower => some (.total, .phaseA, .phaseB, .phaseC)
  | .apparentPower => some (.total, .phaseA, .phaseB, .phaseC)
  | .powerFactor => some (.total, .phaseA, .phaseB, .phaseC)
  | .energy => some (.forwardActive, .reverseActive, .forwardReactive, .reverseReactive)

/-- The k-th `draw32()`: "a free 32-bit value that the rules constrain in no way" (R11, R213). No body, so no proof can see a
value of it (log 5). -/
opaque freeWord : Nat → Word

end Config

end Sys2Proof
end

