-- ==== Sys2Proof/Syntax.lean ====
section
/-! DEFINITION. The instructions: one constructor per row of spec/opcode_table.json, at the two encoding levels of R90. -/

namespace Sys2Proof

/-- The two encoding levels of R90: host operation words, and the command bytes inside a wire frame. -/
inductive Level where
  | host
  | wire
deriving DecidableEq, Repr

/-- One constructor per row of the opcode table. An operand is as its format names it (R93 to R98); the length byte `N` is the
length of the byte list it counts. -/
inductive Instr where
  /-- `CRC16`, format HC (R94): the bytes `D`. -/
  | crc16 (d : List Byte)
  /-- `XACT`, format HX (R95): the address `A` and the command bytes `C`. -/
  | xact (a : Byte) (c : List Byte)
  /-- `DEC3`, format HD3 (R96): mask `M`, divisor `DIV`, expected length `E`, payload `P`. -/
  | dec3 (m : Byte) (div : Half) (e : Byte) (p : List Byte)
  /-- `DEC4`, format HD4 (R97): payload `P`. -/
  | dec4 (p : List Byte)
  /-- `WCFG`, format HW (R98): `C0` is the new `CFG[7:0]`, `C1` the new `CFG[15:8]`. -/
  | wcfg (c0 c1 : Byte)
  /-- `OPEN` (R241). -/
  | openSession
  /-- `CLOSE` (R242). -/
  | closeSession
  /-- `GET.VOLT` (R244). -/
  | getVolt
  /-- `GET.CURR` (R245). -/
  | getCurr
  /-- `GET.PREAL` (R246). -/
  | getPreal
  /-- `GET.PREACT` (R247). -/
  | getPreact
  /-- `GET.PAPP` (R248). -/
  | getPapp
  /-- `GET.PF` (R249). -/
  | getPf
  /-- `GET.ENERGY` (R250). -/
  | getEnergy
  /-- `WIRE.VOLT`: the wire command of the voltage family (R106). -/
  | wireVolt
  /-- `WIRE.CURR` (R106). -/
  | wireCurr
  /-- `WIRE.PREAL` (R106). -/
  | wirePreal
  /-- `WIRE.PREACT` (R106). -/
  | wirePreact
  /-- `WIRE.PAPP` (R106). -/
  | wirePapp
  /-- `WIRE.PF` (R106). -/
  | wirePf
  /-- `WIRE.ENERGY` (R106). -/
  | wireEnergy
  /-- `WIRE.OPEN` (R106). -/
  | wireOpen
  /-- `WIRE.CLOSE` (R106). -/
  | wireClose
deriving DecidableEq, Repr

/-- The level an instruction is encoded at (R90). -/
def Instr.level : Instr → Level
  | .crc16 _ => .host
  | .xact _ _ => .host
  | .dec3 _ _ _ _ => .host
  | .dec4 _ => .host
  | .wcfg _ _ => .host
  | .openSession => .host
  | .closeSession => .host
  | .getVolt => .host
  | .getCurr => .host
  | .getPreal => .host
  | .getPreact => .host
  | .getPapp => .host
  | .getPf => .host
  | .getEnergy => .host
  | .wireVolt => .wire
  | .wireCurr => .wire
  | .wirePreal => .wire
  | .wirePreact => .wire
  | .wirePapp => .wire
  | .wirePf => .wire
  | .wireEnergy => .wire
  | .wireOpen => .wire
  | .wireClose => .wire

/-- The pseudo-instructions of R112. `a` is the address of a `REQ`, `p` the bytes of a `DEC`, `d` the address of a `CHK`. -/
inductive Pseudo where
  | reqVolt (a : Byte)
  | reqCurr (a : Byte)
  | reqPreal (a : Byte)
  | reqPreact (a : Byte)
  | reqPapp (a : Byte)
  | reqPf (a : Byte)
  | reqEnergy (a : Byte)
  | reqOpen (a : Byte)
  | reqClose (a : Byte)
  | decVolt (p : List Byte)
  | decCurr (p : List Byte)
  | decPreal (p : List Byte)
  | decPreact (p : List Byte)
  | decPapp (p : List Byte)
  | decPf (p : List Byte)
  | decEnergy (p : List Byte)
  | chkOn (d : Byte)
  | chkOff (d : Byte)
deriving DecidableEq, Repr

end Sys2Proof
end

