-- ==== Sys2Proof/WellFormed.lean ====
section
/-! DEFINITION. When an instruction is one that a well-formed host word or wire command encodes: the length bytes fit (R91, R94 to
R97) and the operand values are legal (R100 (d) and (e)). -/

namespace Sys2Proof

/-- An 8-bit length byte `N` can count this many bytes: `N` in 0..255 (R94 to R97). -/
def countable (s : List Byte) : Bool := decide (s.length ≤ 255)

/-- A `DEC3` divisor is legal: `DIV = 0` is illegal (R96, R100 (e)). -/
def legalDivisor (div : Half) : Bool := div != 0

/-- A `WCFG` byte `C0` is legal: its reserved bits 7:1 are 0 (R98, R100 (d)). -/
def legalConfig (c0 : Byte) : Bool := c0 >>> 1 == 0

/-- The operands fit the format's fields, so that the instruction has an encoding (R93 to R98). -/
def Instr.encodable : Instr → Bool
  | .crc16 d => countable d
  | .xact _ c => countable c
  | .dec3 _ _ _ p => countable p
  | .dec4 p => countable p
  | .wcfg _ _ => true
  | .openSession => true
  | .closeSession => true
  | .getVolt => true
  | .getCurr => true
  | .getPreal => true
  | .getPreact => true
  | .getPapp => true
  | .getPf => true
  | .getEnergy => true
  | .wireVolt => true
  | .wireCurr => true
  | .wirePreal => true
  | .wirePreact => true
  | .wirePapp => true
  | .wirePf => true
  | .wireEnergy => true
  | .wireOpen => true
  | .wireClose => true

/-- The operand values are ones R100 (d) and (e) do not call illegal. -/
def Instr.legalOperands : Instr → Bool
  | .crc16 _ => true
  | .xact _ _ => true
  | .dec3 _ div _ _ => legalDivisor div
  | .dec4 _ => true
  | .wcfg c0 _ => legalConfig c0
  | .openSession => true
  | .closeSession => true
  | .getVolt => true
  | .getCurr => true
  | .getPreal => true
  | .getPreact => true
  | .getPapp => true
  | .getPf => true
  | .getEnergy => true
  | .wireVolt => true
  | .wireCurr => true
  | .wirePreal => true
  | .wirePreact => true
  | .wirePapp => true
  | .wirePf => true
  | .wireEnergy => true
  | .wireOpen => true
  | .wireClose => true

/-- Well-formed: encodable, with legal operand values (R91, R100). -/
def Instr.wellFormed (i : Instr) : Bool := i.encodable && i.legalOperands

end Sys2Proof
end

