-- ==== Sys2Proof/Decode.lean ====
section
/-! DEFINITION. The decoder of both encoding levels (R90 to R101, R106), total on any bytes and rejecting by name, and after it the
encoder. -/

namespace Sys2Proof

/-! ### The opcode map of R92 -/

def Opcode.crc16 : Byte := 0x01
def Opcode.xact : Byte := 0x02
def Opcode.dec3 : Byte := 0x03
def Opcode.dec4 : Byte := 0x04
def Opcode.wcfg : Byte := 0x05
def Opcode.openSession : Byte := 0x10
def Opcode.closeSession : Byte := 0x11

/-- The opcodes of the seven `GET.*` operations (R92). -/
def Opcode.get : Family → Byte
  | .voltage => 0x20
  | .current => 0x21
  | .realPower => 0x22
  | .reactivePower => 0x23
  | .apparentPower => 0x24
  | .powerFactor => 0x25
  | .energy => 0x26

/-- The `GET.*` operation of a family (R106). -/
def getInstr : Family → Instr
  | .voltage => .getVolt
  | .current => .getCurr
  | .realPower => .getPreal
  | .reactivePower => .getPreact
  | .apparentPower => .getPapp
  | .powerFactor => .getPf
  | .energy => .getEnergy

/-- The wire command of a family (R106). -/
def wireInstr : Family → Instr
  | .voltage => .wireVolt
  | .current => .wireCurr
  | .realPower => .wirePreal
  | .reactivePower => .wirePreact
  | .apparentPower => .wirePapp
  | .powerFactor => .wirePf
  | .energy => .wireEnergy

/-- The formats of R93 to R98; format H0 carries the operation its opcode names. -/
inductive Format where
  | h0 (i : Instr)
  | hc
  | hx
  | hd3
  | hd4
  | hw
deriving DecidableEq, Repr

/-- The opcode map of R92, matched on the whole byte. Every other opcode is illegal. -/
def opcodeFormat (opc : Byte) : Option Format :=
  if opc = Opcode.crc16 then some .hc
  else if opc = Opcode.xact then some .hx
  else if opc = Opcode.dec3 then some .hd3
  else if opc = Opcode.dec4 then some .hd4
  else if opc = Opcode.wcfg then some .hw
  else if opc = Opcode.openSession then some (.h0 .openSession)
  else if opc = Opcode.closeSession then some (.h0 .closeSession)
  else if opc = Opcode.get .voltage then some (.h0 .getVolt)
  else if opc = Opcode.get .current then some (.h0 .getCurr)
  else if opc = Opcode.get .realPower then some (.h0 .getPreal)
  else if opc = Opcode.get .reactivePower then some (.h0 .getPreact)
  else if opc = Opcode.get .apparentPower then some (.h0 .getPapp)
  else if opc = Opcode.get .powerFactor then some (.h0 .getPf)
  else if opc = Opcode.get .energy then some (.h0 .getEnergy)
  else none

/-- The length of a host word, found from `w[0]` and, for HC, HX, HD3 and HD4, from the `N` byte at its fixed position (R99). None
where there is no opcode of R92 or the word is too short to hold its length byte. -/
def wordLength (w : List Byte) : Option Nat :=
  match w.head?.bind opcodeFormat with
  | none => none
  | some (.h0 _) => some 1
  | some .hw => some 3
  | some .hc => w[1]?.map (fun n => 2 + n.toNat)
  | some .hd4 => w[1]?.map (fun n => 2 + n.toNat)
  | some .hx => w[2]?.map (fun n => 3 + n.toNat)
  | some .hd3 => w[5]?.map (fun n => 6 + n.toNat)

/-- The `DEC3` divisor, low byte first: `DIV = (DH << 8) | DL` (R96, R110). -/
def divisorOf (dl dh : Byte) : Half := dh ++ dl

/-- `DL`: divisor bits 7:0 (R96). -/
def divisorLow (div : Half) : Byte := div.extractLsb' 0 8

/-- `DH`: divisor bits 15:8 (R96). -/
def divisorHigh (div : Half) : Byte := div.extractLsb' 8 8

/-- Why a byte string encodes no instruction. At the host level each of these is a word that R100 (a) to (c) calls illegal. -/
inductive DecodeError where
  /-- R100 (a): `|w| = 0`. -/
  | emptyWord
  /-- R100 (b): `w[0]` is not an opcode of R92. -/
  | unknownOpcode (opc : Byte)
  /-- R100 (c): the length is too short to hold the length byte, or differs from what R99 gives. -/
  | badLength (opc : Byte)
  /-- Command bytes outside the catalogue of R106, to which the MPE gives no meaning (R107). -/
  | notInCatalogue
deriving DecidableEq, Repr

/-- Reads the operands of a word of this format from the bytes after its opcode; the length must be exactly R99's. -/
def readOperands (opc : Byte) : Format → List Byte → Except DecodeError Instr
  | .h0 i, [] => .ok i
  | .hc, n :: d => if d.length = n.toNat then .ok (.crc16 d) else .error (.badLength opc)
  | .hx, a :: n :: c => if c.length = n.toNat then .ok (.xact a c) else .error (.badLength opc)
  | .hd3, m :: dl :: dh :: e :: n :: p =>
    if p.length = n.toNat then .ok (.dec3 m (divisorOf dl dh) e p) else .error (.badLength opc)
  | .hd4, n :: p => if p.length = n.toNat then .ok (.dec4 p) else .error (.badLength opc)
  | .hw, [c0, c1] => .ok (.wcfg c0 c1)
  | _, _ => .error (.badLength opc)

/-- The decoder of host operation words (R91 to R100 (c)). The operand values that R100 (d) and (e) call illegal are read here and
raise `ILLEGAL_OP` in the meanings of `WCFG` and `DEC3`, where R240 has the check (log 14). -/
def decodeHost : List Byte → Except DecodeError Instr
  | [] => .error .emptyWord
  | opc :: rest =>
    match opcodeFormat opc with
    | none => .error (.unknownOpcode opc)
    | some f => readOperands opc f rest

/-- The decoder of wire command bytes: the catalogue of R106. -/
def decodeWire (c : List Byte) : Option Instr :=
  if c = Config.familyCmd .voltage then some .wireVolt
  else if c = Config.familyCmd .current then some .wireCurr
  else if c = Config.familyCmd .realPower then some .wirePreal
  else if c = Config.familyCmd .reactivePower then some .wirePreact
  else if c = Config.familyCmd .apparentPower then some .wirePapp
  else if c = Config.familyCmd .powerFactor then some .wirePf
  else if c = Config.familyCmd .energy then some .wireEnergy
  else if c = Config.openCmd then some .wireOpen
  else if c = Config.closeCmd then some .wireClose
  else none

/-- The decoder at either level (R90). -/
def decodeAt : Level → List Byte → Except DecodeError Instr
  | .host, w => decodeHost w
  | .wire, c =>
    match decodeWire c with
    | some i => .ok i
    | none => .error .notInCatalogue

/-! ### The encoder, from the tables of R92 to R98 and R106 -/

/-- The length byte `N` of a byte list (R94 to R97). -/
def lengthByte (s : List Byte) : Byte := BitVec.ofNat 8 s.length

/-- The bytes of an instruction at its own level: a host word, or the command bytes of a wire command. -/
def encode : Instr → List Byte
  | .crc16 d => Opcode.crc16 :: lengthByte d :: d
  | .xact a c => Opcode.xact :: a :: lengthByte c :: c
  | .dec3 m div e p => Opcode.dec3 :: m :: divisorLow div :: divisorHigh div :: e :: lengthByte p :: p
  | .dec4 p => Opcode.dec4 :: lengthByte p :: p
  | .wcfg c0 c1 => [Opcode.wcfg, c0, c1]
  | .openSession => [Opcode.openSession]
  | .closeSession => [Opcode.closeSession]
  | .getVolt => [Opcode.get .voltage]
  | .getCurr => [Opcode.get .current]
  | .getPreal => [Opcode.get .realPower]
  | .getPreact => [Opcode.get .reactivePower]
  | .getPapp => [Opcode.get .apparentPower]
  | .getPf => [Opcode.get .powerFactor]
  | .getEnergy => [Opcode.get .energy]
  | .wireVolt => Config.familyCmd .voltage
  | .wireCurr => Config.familyCmd .current
  | .wirePreal => Config.familyCmd .realPower
  | .wirePreact => Config.familyCmd .reactivePower
  | .wirePapp => Config.familyCmd .apparentPower
  | .wirePf => Config.familyCmd .powerFactor
  | .wireEnergy => Config.familyCmd .energy
  | .wireOpen => Config.openCmd
  | .wireClose => Config.closeCmd

/-- The expansion of a pseudo-instruction to exactly one operation (R112). -/
def Pseudo.expand : Pseudo → Instr
  | .reqVolt a => .xact a (Config.familyCmd .voltage)
  | .reqCurr a => .xact a (Config.familyCmd .current)
  | .reqPreal a => .xact a (Config.familyCmd .realPower)
  | .reqPreact a => .xact a (Config.familyCmd .reactivePower)
  | .reqPapp a => .xact a (Config.familyCmd .apparentPower)
  | .reqPf a => .xact a (Config.familyCmd .powerFactor)
  | .reqEnergy a => .xact a (Config.familyCmd .energy)
  | .reqOpen a => .xact a Config.openCmd
  | .reqClose a => .xact a Config.closeCmd
  | .decVolt p => .dec3 Config.maskVC Config.divV Config.lenVC p
  | .decCurr p => .dec3 Config.maskVC Config.divC Config.lenVC p
  | .decPreal p => .dec3 Config.maskP Config.divP Config.lenP p
  | .decPreact p => .dec3 Config.maskP Config.divP Config.lenP p
  | .decPapp p => .dec3 Config.maskP Config.divP Config.lenP p
  | .decPf p => .dec3 Config.maskP Config.divPF Config.lenP p
  | .decEnergy p => .dec4 p
  | .chkOn d => .wcfg 0x00 d
  | .chkOff d => .wcfg 0x01 d

/-! ### The opcode table's words (log 13) -/

/-- The longest well-formed word: HD3 with `N` = 255 (R99). -/
def longestWord : Nat := 261

/-- The bytes of `w`, bits 7:0 first. -/
def bytesLowFirst (nbits w : Nat) : List Byte :=
  (List.range (nbits / 8)).map (fun k => BitVec.ofNat 8 (w >>> (8 * k)))

/-- A host row's word: its bytes, bits 7:0 first, with zero operand bytes after them up to the length R99 gives. -/
def tableHostWord (nbits w : Nat) : List Byte :=
  let b := bytesLowFirst nbits w ++ List.replicate longestWord 0x00
  match wordLength b with
  | some n => b.take n
  | none => bytesLowFirst nbits w

/-- The level and the bytes of an opcode-table word. A row of several bytes is a wire row, whose `match` is the command bytes written
first-sent first ("command bytes": "08 16 11" is 0x081611), so that its first byte is the most significant one. -/
def tableWord (nbits w : Nat) : Level × List Byte :=
  let c := (bytesLowFirst nbits w).reverse
  if 2 ≤ c.length ∧ (decodeWire c).isSome then (.wire, c) else (.host, tableHostWord nbits w)

/-- The instruction the decoder reads from an opcode-table word. -/
def decodeTableWord (nbits w : Nat) : Option Instr :=
  match decodeAt (tableWord nbits w).1 (tableWord nbits w).2 with
  | .ok i => some i
  | .error _ => none

end Sys2Proof
end

