-- ==== Sys2Proof/Machine/State.lean ====
section
/-! DEFINITION. The state of the MPE (spec/10_state.md, R20) and of the outside world it meets, as plain data; what stops a step; the
state after reset (R300). -/

namespace Sys2Proof.Machine

/-- A 32-byte buffer (R60) as a list of (index, byte) pairs in canonical form (`Memory.wf`): indices strictly rising and below
`BUF_MAX`. An index that is not listed has no value (log 9). -/
abbrev Memory := List Host.Cell

/-- `STATE` (R38). -/
inductive SeqState where
  | idle
  | send
  | recv
  | backoff
deriving DecidableEq, Repr

/-- `CONT`: what completes the transaction when it ends (R38). -/
inductive Cont where
  | raw
  | opening
  | closing
  | get (f : Family)
deriving DecidableEq, Repr

/-- An event of the engine on the channel or the timer (R11, R71). -/
inductive Event where
  /-- "byte sequence `s` sent on the channel". -/
  | chWrite (s : List Byte)
  /-- One channel read, with what it returned. -/
  | chRead (r : List Byte)
  /-- "the timer reports that at least `t` has elapsed", in milliseconds. -/
  | delay (ms : Nat)
deriving DecidableEq, Repr

/-- A move of the host, or of whoever drives the reset input (log 1). -/
inductive HostMove where
  /-- Issue one host operation word (R91, R305). -/
  | issue (w : List Byte)
  /-- Read one register through the read port (R22). -/
  | readReg (n : Byte)
  /-- Apply reset (R302). -/
  | reset
  /-- Make no move while the engine takes one step. -/
  | pass
deriving DecidableEq, Repr

/-- What is outside the MPE and what it has seen of it; no register of R20 (logs 1 to 4). Reset does not touch it (R304). -/
structure World where
  /-- The host's moves to come. -/
  host : List HostMove
  /-- What the channel oracle `CH_ORACLE` answers to the `ChRead`s to come (R68); when empty, a `ChRead` does not return (R311). -/
  answers : List (List Byte)
  /-- How many `Delay`s to come the timer reports as elapsed; when 0, a `Delay` does not complete (R311). -/
  timer : Nat
  /-- The events so far, newest first. -/
  events : List Event
  /-- What the read port has returned so far, newest first: index and value. -/
  reads : List (Byte × Word)
deriving DecidableEq, Repr

/-- The state. Every field up to `cont` is a register of R20 under its own name. -/
structure State where
  /-- `CFG` (R23). -/
  cfg : Half
  /-- `STATUS` (R26). -/
  status : Half
  /-- `ATT` (R33). -/
  att : Byte
  /-- `LOP` (R43). -/
  lop : Byte
  /-- `TXBUF` (R34). -/
  txbuf : Memory
  /-- `TXLEN` (R34). -/
  txlen : Byte
  /-- `RXBUF` (R35). -/
  rxbuf : Memory
  /-- `RXLEN` (R35). -/
  rxlen : Byte
  /-- `PLEN` (R36). -/
  plen : Byte
  /-- `CRCOUT` (R37). -/
  crcout : Half
  /-- `VAL0` (R40). -/
  val0 : Word
  /-- `VAL1` (R40). -/
  val1 : Word
  /-- `VAL2` (R40). -/
  val2 : Word
  /-- `VAL3` (R40). -/
  val3 : Word
  /-- `DD` (R41). -/
  dd : Byte
  /-- `DIVR` (R42). -/
  divr : Half
  /-- `STATE` (R38). -/
  seq : SeqState
  /-- `CONT` (R38); no step reads it in `IDLE` (log 7). -/
  cont : Cont
  /-- The model's own: how many `draw32()` values have been taken (log 5). -/
  draws : Nat
  /-- The model's own: the outside world. -/
  world : World
deriving DecidableEq, Repr

/-- Why a step stops. All are safe: the spec says that a model faults there, or that the case is never evaluated. -/
inductive Fault where
  /-- Raised by the read port: a result register read while `RV = 0` or outside the result set of `LOP` (R44, U1, U5). Safe. -/
  | unspecifiedResult
  /-- Raised by the read port: a buffer byte at or above the valid length (R34, R35, U2, U3). Safe. -/
  | unspecifiedBufferByte
  /-- Raised by the read port: a register R306 does not list, read while `BUSY = 1` (U4). Safe. -/
  | readWhileBusy
  /-- Raised by the engine's own buffer reads where nothing has written the byte; no reachable state has one (log 9). Safe. -/
  | unwrittenByte
  /-- Raised by a buffer write outside 0..31, which R9 says is never evaluated; no reachable state has one (log 9). Safe. -/
  | bufferRange
deriving DecidableEq, Repr

/-- Why an instruction has no meaning. -/
inductive Refusal where
  /-- Raised by an arm of `exec` whose instruction has no meaning yet; there is none. Safe. -/
  | notModelled (mnemonic : String)
deriving DecidableEq, Repr

/-- The outcome of an instruction or a step. -/
abbrev Result := Host.Outcome State Fault Refusal

/-- The state right after reset (R300, R301). The registers R300 calls unspecified hold 0, and `CONT` holds `RAW` (DESIGN CHOICE,
logs 6 and 7); the outside world is empty (logs 1 to 4). -/
def State.reset : State where
  cfg := Config.daddrReset ++ 0#8
  status := 0
  att := 0
  lop := 0
  txbuf := []
  txlen := 0
  rxbuf := []
  rxlen := 0
  plen := 0
  crcout := 0
  val0 := 0
  val1 := 0
  val2 := 0
  val3 := 0
  dd := 0
  divr := 0
  seq := .idle
  cont := .raw
  draws := 0
  world := { host := [], answers := [], timer := 0, events := [], reads := [] }

end Sys2Proof.Machine
end

