-- ==== Sys2Proof/Machine/Flags.lean ====
section
/-! DEFINITION. The fields of `CFG` and `STATUS` (R23, R26), the error and validation codes (R271, R272), and which result registers
are defined (R44). The MPE has no condition codes (R47). -/

namespace Sys2Proof.Machine

/-- The `n` bits of a register from bit `lo` up (R8). -/
def getField (r : Half) (lo n : Nat) : BitVec n := r.extractLsb' lo n

/-- The register with the bits of `v` from bit `lo` up and every other bit kept. -/
def putField {n : Nat} (r : Half) (lo : Nat) (v : BitVec n) : Half :=
  (r &&& ~~~((BitVec.allOnes n).setWidth 16 <<< lo)) ||| (v.setWidth 16 <<< lo)

/-! ### STATUS (R26) -/

def Status.busy (st : Half) : Bool := st.getLsbD 0
def Status.rv (st : Half) : Bool := st.getLsbD 1
def Status.sess (st : Half) : Bool := st.getLsbD 2
def Status.clf (st : Half) : Bool := st.getLsbD 3
def Status.err (st : Half) : BitVec 4 := getField st 4 4
def Status.lerr (st : Half) : BitVec 3 := getField st 8 3
/-- The reserved bits 15:11, "read as 0". -/
def Status.reserved (st : Half) : BitVec 5 := getField st 11 5

def Status.setBusy (st : Half) (b : Bool) : Half := putField st 0 (BitVec.ofBool b)
def Status.setRv (st : Half) (b : Bool) : Half := putField st 1 (BitVec.ofBool b)
def Status.setSess (st : Half) (b : Bool) : Half := putField st 2 (BitVec.ofBool b)
def Status.setClf (st : Half) (b : Bool) : Half := putField st 3 (BitVec.ofBool b)
def Status.setErr (st : Half) (e : BitVec 4) : Half := putField st 4 e
def Status.setLerr (st : Half) (e : BitVec 3) : Half := putField st 8 e

/-! ### CFG (R23) -/

/-- `CFG.ICS`, the `ignore_checksum` mode (R24). -/
def Cfg.ics (c : Half) : Bool := c.getLsbD 0
/-- The reserved bits 7:1, "read as 0". -/
def Cfg.reserved (c : Half) : BitVec 7 := getField c 1 7
/-- `CFG.DADDR`, the device address (R25). -/
def Cfg.daddr (c : Half) : Byte := getField c 8 8
/-- `(C1 << 8) | C0` (R98). -/
def Cfg.ofBytes (c0 c1 : Byte) : Half := c1 ++ c0

/-! ### Codes -/

/-- The error codes of `STATUS.ERR` (R271). -/
inductive ErrorCode where
  | invalidCommand
  /-- Never raised by the MPE (R279). -/
  | channelError
  | transactionError
  | decodeError
  | illegalOp
  | sessionClosed
deriving DecidableEq, Repr

/-- The number of an error in `STATUS.ERR`; 0 is success (R271). -/
def ErrorCode.code : ErrorCode → BitVec 4
  | .invalidCommand => 1
  | .channelError => 2
  | .transactionError => 3
  | .decodeError => 4
  | .illegalOp => 5
  | .sessionClosed => 6

/-- `STATUS.ERR` after a success (R281). -/
def errNone : BitVec 4 := 0

/-- The validation errors of `STATUS.LERR` (R272). -/
inductive ValidationError where
  | invalidResponse
  | badChecksum
  | badAddress
  | deviceError
deriving DecidableEq, Repr

/-- The number of a validation error in `STATUS.LERR` (R272). -/
def ValidationError.code : ValidationError → BitVec 3
  | .invalidResponse => 1
  | .badChecksum => 2
  | .badAddress => 3
  | .deviceError => 4

/-- `STATUS.LERR` when no attempt has failed (R272). -/
def lerrNone : BitVec 3 := 0

/-- The source's error strings, exact (R272). -/
def ValidationError.text : ValidationError → String
  | .invalidResponse => "invalid response"
  | .badChecksum => "invalid response checksum"
  | .badAddress => "invalid device address"
  | .deviceError => "device returned error"

/-! ### Result sets (R44) -/

/-- The result registers. -/
inductive ResultReg where
  | plen
  | crcout
  | val0
  | val1
  | val2
  | val3
  | dd
  | divr
deriving DecidableEq, Repr

/-- A register that a decode writes: `VAL0`..`VAL3`, `DD`, `DIVR`. -/
def ResultReg.ofDecode : ResultReg → Bool
  | .plen => false
  | .crcout => false
  | .val0 => true
  | .val1 => true
  | .val2 => true
  | .val3 => true
  | .dd => true
  | .divr => true

/-- The opcodes 0x20..0x26 of the `GET.*` operations (R92). -/
def isGetOpcode (lop : Byte) : Bool :=
  decide ((Opcode.get .voltage).toNat ≤ lop.toNat) && decide (lop.toNat ≤ (Opcode.get .energy).toNat)

/-- Whether a register is in the result set of the operation with opcode `lop` (R44). -/
def inResultSet (lop : Byte) (r : ResultReg) : Bool :=
  if lop = Opcode.crc16 then decide (r = .crcout)
  else if lop = Opcode.xact then decide (r = .plen)
  else if lop = Opcode.dec3 then r.ofDecode
  else if lop = Opcode.dec4 then r.ofDecode
  else if lop = Opcode.openSession then decide (r = .plen)
  else if isGetOpcode lop then decide (r = .plen) || r.ofDecode
  else false

end Sys2Proof.Machine
end

