-- ==== Sys2Proof/Machine/Ops.lean ====
section
/-! DEFINITION. The named operations over the buffers, the registers and the outside world, and the two completions every operation
ends by: `raise` (R276), the MPE's form of taking an exception, and `complete_ok` (R281). There is no return from an error (R282). -/

namespace Sys2Proof.Machine

/-! ### Buffers (R11, R60) -/

/-- What an index that is not listed reads as: no value (log 9). -/
def Memory.unlisted : Option Byte := none

/-- One byte of a buffer. -/
def Memory.read : Memory → Nat → Option Byte
  | [], _ => Memory.unlisted
  | (a, b) :: rest, i => if i = a then some b else Memory.read rest i

/-- Puts a byte at its place in the rising list, over what was there. -/
def Memory.put : Memory → Nat → Byte → Memory
  | [], i, v => [(i, v)]
  | (a, b) :: rest, i, v =>
    if i < a then (i, v) :: (a, b) :: rest
    else if i = a then (i, v) :: rest
    else (a, b) :: Memory.put rest i v

/-- Indices strictly rising, each at least `lo` and below `BUF_MAX`. -/
def Memory.wfFrom (lo : Nat) : Memory → Bool
  | [] => true
  | (a, _) :: rest => decide (lo ≤ a) && decide (a < Config.bufMax) && Memory.wfFrom (a + 1) rest

/-- The canonical form of a buffer. -/
def Memory.wf (m : Memory) : Bool := Memory.wfFrom 0 m

/-- Puts a byte sequence from an index up. -/
def Memory.putAll : Memory → Nat → List Byte → Memory
  | m, _, [] => m
  | m, i, b :: bs => Memory.putAll (Memory.put m i b) (i + 1) bs

/-- `MemWrite(B, a, |s|, s)` (R11); none where it would leave 0..31, which no rule does (R9). -/
def Memory.write (m : Memory) (a : Nat) (s : List Byte) : Option Memory :=
  if a + s.length ≤ Config.bufMax then some (Memory.putAll m a s) else none

/-- `MemRead(B, a, n)` (R11); none where a byte has no value. -/
def Memory.readAll (m : Memory) (a : Nat) : Nat → Option (List Byte)
  | 0 => some []
  | n + 1 =>
    match Memory.read m a, Memory.readAll m (a + 1) n with
    | some b, some bs => some (b :: bs)
    | _, _ => none

/-! ### Accessors -/

/-- `STATUS.BUSY`. -/
def State.busy (s : State) : Bool := Status.busy s.status

/-- `CFG.DADDR`. -/
def State.daddr (s : State) : Byte := Cfg.daddr s.cfg

/-- `CFG.ICS`. -/
def State.ics (s : State) : Bool := Cfg.ics s.cfg

/-- The request frame: `MemRead(TXBUF, 0, TXLEN)` (R182). -/
def State.frame (s : State) : Option (List Byte) := Memory.readAll s.txbuf 0 s.txlen.toNat

/-- The last response: `MemRead(RXBUF, 0, RXLEN)` (R35). -/
def State.response (s : State) : Option (List Byte) := Memory.readAll s.rxbuf 0 s.rxlen.toNat

/-- The payload: `MemRead(RXBUF, 1, PLEN)` (R36, R243). -/
def State.payload (s : State) : Option (List Byte) := Memory.readAll s.rxbuf 1 s.plen.toNat

/-! ### The outside world -/

/-- The state with the host's moves to come replaced. -/
def State.withHost (s : State) (h : List HostMove) : State := { s with world := { s.world with host := h } }

/-- The state with one more event. -/
def State.logEvent (s : State) (e : Event) : State := { s with world := { s.world with events := e :: s.world.events } }

/-- The state after a channel read returned `r`, with the oracle's answers to come: `ChRead` consumes what it returns (R67). -/
def State.takeAnswer (s : State) (r : List Byte) (rest : List (List Byte)) : State :=
  { s with world := { s.world with answers := rest, events := .chRead r :: s.world.events } }

/-- The state after the timer reported a `Delay` as elapsed. -/
def State.takeDelay (s : State) (ms left : Nat) : State :=
  { s with world := { s.world with timer := left, events := .delay ms :: s.world.events } }

/-- The state after the read port returned a value. -/
def State.logRead (s : State) (n : Byte) (v : Word) : State := { s with world := { s.world with reads := (n, v) :: s.world.reads } }

/-! ### Completion -/

/-- `raise E(info)`, the error completion of the operation with opcode `opc` (R276). It writes nothing else. -/
def State.raise (e : ErrorCode) (opc : Byte) (s : State) : State :=
  { s with
    status := Status.setBusy (Status.setRv (Status.setErr s.status e.code) false) false
    lop := opc
    seq := .idle }

/-- `complete_ok(opc)`, the successful completion (R281). -/
def State.completeOk (opc : Byte) (s : State) : State :=
  { s with
    status := Status.setBusy (Status.setRv (Status.setErr s.status errNone) true) false
    lop := opc
    seq := .idle }

end Sys2Proof.Machine
end

