-- ==== Sys2Proof/Machine/Operands.lean ====
section
/-! DEFINITION. The register layouts inside a payload, and what a decoded register means: the 3-byte and 4-byte assemblies (R108, R109,
R211, R214), the sentinel (R216) and the exact scaled value (R218). Every value is unsigned (R219). -/

namespace Sys2Proof.Machine

/-- The 3-byte register of `d0 d1 d2` with mask `M`: bits 31:24 are 0, then `d0 & M`, `d2`, `d1` (R108, R211). -/
def asm3 (m d0 d1 d2 : Byte) : Word := 0#8 ++ (d0 &&& m) ++ d2 ++ d1

/-- The 4-byte register of `d0 d1 d2 d3`: from the top `d1`, `d0`, `d3`, `d2` (R109, R214). -/
def asm4 (d0 d1 d2 d3 : Byte) : Word := d1 ++ d0 ++ d3 ++ d2

/-- `Asm3(P, i, M)` where register `i` lies inside the payload, `3i + 2 < |P|`; otherwise none, and the slot is device-defined (R211,
R213). -/
def slot3 (p : List Byte) (m : Byte) (i : Nat) : Option Word :=
  match p[3 * i]?, p[3 * i + 1]?, p[3 * i + 2]? with
  | some d0, some d1, some d2 => some (asm3 m d0 d1 d2)
  | _, _, _ => none

/-- The sentinel is normalised to 0 (R216). -/
def normalise (v : Word) : Word := if v = Config.sentinel then 0 else v

/-- `Asm4(P, i)` normalised (R214 to R216). `Decode4` calls it on 16 bytes only, so that no index leaves the payload (R9). -/
def slot4 (p : List Byte) (i : Nat) : Word :=
  normalise (asm4 (p.getD (4 * i) 0) (p.getD (4 * i + 1) 0) (p.getD (4 * i + 2) 0) (p.getD (4 * i + 3) 0))

/-- The exact physical value of a slot, `Q = VAL / DIVR` (R218). -/
def physical (v : Word) (divr : Half) : Rat := (v.toNat : Rat) / (divr.toNat : Rat)

/-- The host's float of a slot: the open parameter `FLOAT_FMT`, an argument (R7, R218). No step reads it. -/
def physicalFloat {F : Type} (floatFmt : Rat → F) (v : Word) (divr : Half) : F := floatFmt (physical v divr)

end Sys2Proof.Machine
end

