-- ==== Sys2Proof/Machine/Decoder.lean ====
section
/-! DEFINITION. The register decoder (spec/43_decoder.md): `Decode3`, `Decode4`, and the operations `DEC3` and `DEC4`. -/

namespace Sys2Proof.Machine

/-- `VALi` of `Decode3`: the register, or the draw of a device-defined slot (R212, R213). Slot `i` takes the draw number `draws + i`. -/
def value3 (p : List Byte) (m : Byte) (draws i : Nat) : Word := (slot3 p m i).getD (Config.freeWord (draws + i))

/-- `DD` of `Decode3`: bit `i` flags that slot `i` is device-defined; bits 7:4 are 0 (R41, R212). -/
def flags3 (p : List Byte) (m : Byte) : Byte :=
  0#4 ++ BitVec.ofBool (slot3 p m 3).isNone ++ BitVec.ofBool (slot3 p m 2).isNone
    ++ BitVec.ofBool (slot3 p m 1).isNone ++ BitVec.ofBool (slot3 p m 0).isNone

/-- `Decode3(P, M, DIV, E)` (R212): none is its `DECODE_ERROR` (R220). A decode uses up four draw numbers, one for each slot, so that
no two slots share one (log 5). -/
def decode3 (p : List Byte) (m : Byte) (div : Half) (e : Byte) (s : State) : Option State :=
  if p.length = e.toNat then
    some { s with
      val0 := value3 p m s.draws 0
      val1 := value3 p m s.draws 1
      val2 := value3 p m s.draws 2
      val3 := value3 p m s.draws 3
      dd := flags3 p m
      divr := div
      draws := s.draws + 4 }
  else none

/-- `Decode4(P)` (R215): none is its `DECODE_ERROR` (R220). -/
def decode4 (p : List Byte) (s : State) : Option State :=
  if p.length = Config.lenE.toNat then
    some { s with
      val0 := slot4 p 0
      val1 := slot4 p 1
      val2 := slot4 p 2
      val3 := slot4 p 3
      dd := 0
      divr := Config.divE }
  else none

/-- The decode of a family's payload (R217). -/
def decodeFamily (f : Family) (p : List Byte) (s : State) : Option State :=
  match Config.familyLayout f with
  | .threeByte m => decode3 p m (Config.familyDivisor f) (Config.familyLength f) s
  | .fourByte => decode4 p s

/-- How an operation that decodes completes: `complete_ok`, or `DECODE_ERROR` with no result register written (R220). -/
def completeDecode (opc : Byte) (s : State) : Option State → State
  | some t => State.completeOk opc t
  | none => State.raise .decodeError opc s

/-- `DEC3` (R212). `DIV = 0` makes the word illegal (R100 (e)), before the length check (R280). -/
def execDec3 (m : Byte) (div : Half) (e : Byte) (p : List Byte) (s : State) : Result :=
  if legalDivisor div then .next (completeDecode Opcode.dec3 s (decode3 p m div e s))
  else .next (State.raise .illegalOp Opcode.dec3 s)

/-- `DEC4` (R215). -/
def execDec4 (p : List Byte) (s : State) : Result :=
  .next (completeDecode Opcode.dec4 s (decode4 p s))

end Sys2Proof.Machine
end

