-- ==== Sys2Proof/Machine/Crc.lean ====
section
/-! DEFINITION. The CRC16 engine (spec/40_crc.md). -/

namespace Sys2Proof.Machine

/-- One of the eight rounds of the table generator (R130). -/
def crcRound (c : Half) : Half := if c.getLsbD 0 then (c >>> 1) ^^^ Config.crcPolyR else c >>> 1

/-- `CRC_TABLE[i]`, by the generator of R130 (PRESUMED, log 15: K1, K2). -/
def crcTable (i : Byte) : Half := Nat.repeat crcRound 8 (i.setWidth 16)

/-- `swap16(v)` (R10). -/
def swap16 (v : Half) : Half := v.extractLsb' 0 8 ++ v.extractLsb' 8 8

/-- The step of `CRCREG` on one byte: `(CRCREG >> 8) ^ CRC_TABLE[(CRCREG ^ byte) & 0xFF]` (R131). -/
def crcUpdate (crcreg : Half) (b : Byte) : Half :=
  (crcreg >>> 8) ^^^ crcTable ((crcreg ^^^ b.setWidth 16).extractLsb' 0 8)

/-- `CRC16REG(s)` (R131). `CRCREG` is the accumulator of the fold (R39, log 8). -/
def crc16Reg (s : List Byte) : Half := s.foldl crcUpdate Config.crcInit ^^^ Config.crcXorOut

/-- `CRC16OUT(s)`: the value in wire order (R132). -/
def crc16Out (s : List Byte) : Half := swap16 (crc16Reg s)

/-- The two bytes of `CRC16OUT(s)` as a frame carries them, high byte first (R132). -/
def crcBytes (s : List Byte) : List Byte := [(crc16Out s).extractLsb' 8 8, (crc16Out s).extractLsb' 0 8]

/-- `CRC16` (R133). -/
def execCrc16 (d : List Byte) (s : State) : Result :=
  .next (State.completeOk Opcode.crc16 { s with crcout := crc16Out d })

end Sys2Proof.Machine
end

