-- ==== Sys2Proof/Machine/Framer.lean ====
section
/-! DEFINITION. The request framer and the response validator (spec/41_framer.md). -/

namespace Sys2Proof.Machine

/-- The request frame of address `A` and command bytes `C` (R102, R150). -/
def requestFrame (a : Byte) (c : List Byte) : List Byte := (a :: c) ++ crcBytes (a :: c)

/-- `BuildFrame(A, C)`: writes the frame to `TXBUF` and its length to `TXLEN` (R150). It is called with at most `CMD_MAX` command
bytes, and then it fits. -/
def buildFrame (a : Byte) (c : List Byte) (s : State) : Result :=
  match Memory.write s.txbuf 0 (requestFrame a c) with
  | some m => .next { s with txbuf := m, txlen := BitVec.ofNat 8 (requestFrame a c).length }
  | none => .fault .bufferRange

/-- The trailing two bytes of a response read high byte first, `(r[n-2] << 8) | r[n-1]` (R152). Called with `|r| >= RSP_MIN` only. -/
def trailer (r : List Byte) : Half := r.getD (r.length - 2) 0 ++ r.getD (r.length - 1) 0

/-- `Validate(r, A, ics)`: none is `OK`, otherwise the code of the first check that fails (R152 to R156). -/
def validate (r : List Byte) (a : Byte) (ics : Bool) : Option ValidationError :=
  if r.length < Config.rspMin then some .invalidResponse
  else if ics = false ∧ crc16Out (r.take (r.length - 2)) ≠ trailer r then some .badChecksum
  else if r.getD 0 0 ≠ a then some .badAddress
  else if r.length = Config.statusOnlyLen ∧ r.getD 1 0 &&& 0x0F ≠ 0 then some .deviceError
  else none

/-- The payload of a response that validates: `r[1..n-2)` (R157). -/
def payloadOf (r : List Byte) : List Byte := (r.take (r.length - 2)).drop 1

/-- The wire command that a request frame carries, where it is the frame (R102) of a command of the catalogue (R106). -/
def decodeFrame (f : List Byte) : Option Instr :=
  match f with
  | [] => none
  | a :: rest =>
    match decodeWire (rest.take (rest.length - 2)) with
    | some i => if f = requestFrame a (encode i) then some i else none
    | none => none

end Sys2Proof.Machine
end

