-- ==== Sys2Proof/Machine/Transaction.lean ====
section
/-! DEFINITION. The transaction engine and its retry state machine (spec/42_transaction.md), with the arms by which `OPEN`, `CLOSE` and
the `GET.*` operations end their transactions (R241 to R243), and the operation `XACT`. -/

namespace Sys2Proof.Machine

/-- The opcode of the operation whose transaction this is (R186, R187, R276). -/
def Cont.opcode : Cont → Byte
  | .raw => Opcode.xact
  | .opening => Opcode.openSession
  | .closing => Opcode.closeSession
  | .get f => Opcode.get f

/-- What `StartXact` writes first: `LERR`, `ATT` and `RXLEN` to 0 (R181). -/
def State.clearTransaction (s : State) : State :=
  { s with status := Status.setLerr s.status lerrNone, att := 0, rxlen := 0 }

/-- What `StartXact` writes last: `CONT`, `BUSY` and `STATE` (R181). -/
def State.enterSend (k : Cont) (s : State) : State :=
  { s with cont := k, status := Status.setBusy s.status true, seq := .send }

/-- `StartXact(A, C, k)` (R181), with the command length check of R151. -/
def startXact (a : Byte) (c : List Byte) (k : Cont) (s : State) : Result :=
  if Config.cmdMax < c.length then
    .next (State.raise .invalidCommand k.opcode { s.clearTransaction with txlen := 0 })
  else
    match buildFrame a c s.clearTransaction with
    | .next t => .next (State.enterSend k t)
    | .fault r => .fault r
    | .refused r => .refused r

/-- The `SEND` step on the frame `f`: `ChWrite(f)`, one more attempt, then `RECV` (R182). The write is taken as delivering all of `f`
(R69). -/
def sendFrame (f : List Byte) (s : State) : State :=
  { s.logEvent (.chWrite f) with att := s.att + 1, seq := .recv }

/-- The success arm of `OPEN` (R241). -/
def openSuccess (s : State) : State :=
  State.completeOk Opcode.openSession { s with status := Status.setSess s.status true }

/-- The failure arm of `OPEN` (R241). -/
def openFailure (s : State) : State :=
  State.raise .transactionError Opcode.openSession { s with status := Status.setSess s.status false }

/-- The success arm of `CLOSE` (R242). -/
def closeSuccess (s : State) : State :=
  State.completeOk Opcode.closeSession { s with status := Status.setClf (Status.setSess s.status false) false }

/-- The failure arm of `CLOSE`: "logged/ignored, never propagated" (R242). -/
def closeFailure (s : State) : State :=
  State.completeOk Opcode.closeSession { s with status := Status.setClf (Status.setSess s.status false) true }

/-- The decode arm of a `GET.*` (R243): the payload from `RXBUF`, decoded by its family's parameters. -/
def getDecode (f : Family) (s : State) : Result :=
  match s.payload with
  | some p => .next (completeDecode (Opcode.get f) s (decodeFamily f p s))
  | none => .fault .unwrittenByte

/-- `FinishOK` (R186): `PLEN <- RXLEN - 3`, then the continuation's arm. `LERR` is kept. -/
def finishOk (s : State) : Result :=
  let t := { s with plen := s.rxlen - 3 }
  match t.cont with
  | .raw => .next (State.completeOk Opcode.xact t)
  | .opening => .next (openSuccess t)
  | .closing => .next (closeSuccess t)
  | .get f => getDecode f t

/-- `FinishFail` (R187). The diagnostics stay in `LERR`, `TXBUF` and `RXBUF`. -/
def finishFail (s : State) : State :=
  match s.cont with
  | .raw => State.raise .transactionError Opcode.xact s
  | .opening => openFailure s
  | .closing => closeFailure s
  | .get f => State.raise .transactionError (Opcode.get f) s

/-- `RetryOrFail(v)` (R184): the failing check's code to `LERR`, then `FinishFail` after the last attempt, else `BACKOFF`. -/
def retryOrFail (v : ValidationError) (s : State) : State :=
  let t := { s with status := Status.setLerr s.status v.code }
  if t.att.toNat = Config.maxAttempts then finishFail t else { t with seq := .backoff }

/-- What `RECV` does with the response `r` once `ChRead` has returned it (R183). -/
def receive (r : List Byte) (s : State) : Result :=
  match Memory.write s.rxbuf 0 r with
  | none => .fault .bufferRange
  | some m =>
    let t := { s with rxbuf := m, rxlen := BitVec.ofNat 8 r.length }
    match Memory.read t.txbuf 0 with
    | none => .fault .unwrittenByte
    | some a =>
      match validate r a t.ics with
      | none => finishOk t
      | some v => .next (retryOrFail v t)

/-- The `RECV` step (R183): one `ChRead(RD_MAX)`, which returns at most `RD_MAX` bytes (R68). While the channel does not return, the
engine stays in `RECV` (R191, R311; log 2). -/
def recvStep (s : State) : Result :=
  match s.world.answers with
  | [] => .next s
  | r :: rest => receive (r.take Config.rdMax) (s.takeAnswer (r.take Config.rdMax) rest)

/-- The `BACKOFF` step (R185): `Delay(BACKOFF_UNIT * ATT)`, then `SEND`. While the timer does not report, the engine stays in
`BACKOFF` (R311; log 3). -/
def backoffStep (s : State) : Result :=
  match s.world.timer with
  | 0 => .next s
  | left + 1 => .next { s.takeDelay (Config.backoffUnitMs * s.att.toNat) left with seq := .send }

/-- `XACT` (R180): an explicit address and command, whatever `SESS` and `DADDR` are. -/
def execXact (a : Byte) (c : List Byte) (s : State) : Result := startXact a c .raw s

end Sys2Proof.Machine
end

