-- ==== Sys2Proof/Machine/Client.lean ====
section
/-! DEFINITION. The client operations (spec/44_client.md): `WCFG`, `OPEN`, `CLOSE` and the seven `GET.*`. Each is its accept step; the
steps of its transaction follow by Transaction.lean. -/

namespace Sys2Proof.Machine

/-- `WCFG` (R240): reserved bits set is `ILLEGAL_OP`, otherwise `CFG <- (C1 << 8) | C0`. -/
def execWcfg (c0 c1 : Byte) (s : State) : Result :=
  if legalConfig c0 then .next (State.completeOk Opcode.wcfg { s with cfg := Cfg.ofBytes c0 c1 })
  else .next (State.raise .illegalOp Opcode.wcfg s)

/-- `OPEN` (R241): accepted whatever `SESS` is. -/
def execOpen (s : State) : Result := startXact s.daddr Config.openCmd .opening s

/-- `CLOSE` (R242): accepted whatever `SESS` is. -/
def execClose (s : State) : Result := startXact s.daddr Config.closeCmd .closing s

/-- `GetFamily(f)`, the accept step (R243): `SESSION_CLOSED` when `SESS = 0` (R251), otherwise the family's transaction. -/
def getFamily (f : Family) (s : State) : Result :=
  if Status.sess s.status then startXact s.daddr (Config.familyCmd f) (.get f) s
  else .next (State.raise .sessionClosed (Opcode.get f) s)

/-- `GET.VOLT` (R244). -/
def execGetVolt (s : State) : Result := getFamily .voltage s

/-- `GET.CURR` (R245). -/
def execGetCurr (s : State) : Result := getFamily .current s

/-- `GET.PREAL` (R246). -/
def execGetPreal (s : State) : Result := getFamily .realPower s

/-- `GET.PREACT` (R247). -/
def execGetPreact (s : State) : Result := getFamily .reactivePower s

/-- `GET.PAPP` (R248). -/
def execGetPapp (s : State) : Result := getFamily .apparentPower s

/-- `GET.PF` (R249). -/
def execGetPf (s : State) : Result := getFamily .powerFactor s

/-- `GET.ENERGY` (R250). -/
def execGetEnergy (s : State) : Result := getFamily .energy s

end Sys2Proof.Machine
end

