-- ==== Sys2Proof/Machine/Wire.lean ====
section
/-! DEFINITION. The wire commands of the catalogue (R106). A wire command is not a host word: it is what a transaction puts on the byte
channel, and the engine runs it in the `SEND` step of a transaction that holds its frame (R102, R182; log 12). What the device then does
with it is not in the source (R107). -/

namespace Sys2Proof.Machine

/-- Sends the frame of a command to the address of the transaction, `TXBUF[0]` (R62, R102, R182). -/
def transmit (c : List Byte) (s : State) : Result :=
  match Memory.read s.txbuf 0 with
  | some a => .next (sendFrame (requestFrame a c) s)
  | none => .fault .unwrittenByte

/-- `WIRE.VOLT` (R106, R244). -/
def execWireVolt (s : State) : Result := transmit (Config.familyCmd .voltage) s

/-- `WIRE.CURR` (R106, R245). -/
def execWireCurr (s : State) : Result := transmit (Config.familyCmd .current) s

/-- `WIRE.PREAL` (R106, R246). -/
def execWirePreal (s : State) : Result := transmit (Config.familyCmd .realPower) s

/-- `WIRE.PREACT` (R106, R247). -/
def execWirePreact (s : State) : Result := transmit (Config.familyCmd .reactivePower) s

/-- `WIRE.PAPP` (R106, R248). -/
def execWirePapp (s : State) : Result := transmit (Config.familyCmd .apparentPower) s

/-- `WIRE.PF` (R106, R249). -/
def execWirePf (s : State) : Result := transmit (Config.familyCmd .powerFactor) s

/-- `WIRE.ENERGY` (R106, R250). -/
def execWireEnergy (s : State) : Result := transmit (Config.familyCmd .energy) s

/-- `WIRE.OPEN` (R106, R241). -/
def execWireOpen (s : State) : Result := transmit Config.openCmd s

/-- `WIRE.CLOSE` (R106, R242). -/
def execWireClose (s : State) : Result := transmit Config.closeCmd s

end Sys2Proof.Machine
end

