-- ==== Sys2Proof/Machine/Dispatch.lean ====
section
/-! DEFINITION. Every instruction's meaning, one arm each. -/

namespace Sys2Proof.Machine

def exec (i : Instr) (s : State) : Host.Outcome State Fault Refusal :=
  match i with
  -- host operation words
  | .crc16 d => Sys2Proof.Machine.execCrc16 d s
  | .xact a c => Sys2Proof.Machine.execXact a c s
  | .dec3 m div e p => Sys2Proof.Machine.execDec3 m div e p s
  | .dec4 p => Sys2Proof.Machine.execDec4 p s
  | .wcfg c0 c1 => Sys2Proof.Machine.execWcfg c0 c1 s
  | .openSession => Sys2Proof.Machine.execOpen s
  | .closeSession => Sys2Proof.Machine.execClose s
  | .getVolt => Sys2Proof.Machine.execGetVolt s
  | .getCurr => Sys2Proof.Machine.execGetCurr s
  | .getPreal => Sys2Proof.Machine.execGetPreal s
  | .getPreact => Sys2Proof.Machine.execGetPreact s
  | .getPapp => Sys2Proof.Machine.execGetPapp s
  | .getPf => Sys2Proof.Machine.execGetPf s
  | .getEnergy => Sys2Proof.Machine.execGetEnergy s
  -- wire commands
  | .wireVolt => Sys2Proof.Machine.execWireVolt s
  | .wireCurr => Sys2Proof.Machine.execWireCurr s
  | .wirePreal => Sys2Proof.Machine.execWirePreal s
  | .wirePreact => Sys2Proof.Machine.execWirePreact s
  | .wirePapp => Sys2Proof.Machine.execWirePapp s
  | .wirePf => Sys2Proof.Machine.execWirePf s
  | .wireEnergy => Sys2Proof.Machine.execWireEnergy s
  | .wireOpen => Sys2Proof.Machine.execWireOpen s
  | .wireClose => Sys2Proof.Machine.execWireClose s

end Sys2Proof.Machine
end

