-- ==== Sys2Proof/Machine/Port.lean ====
section
/-! DEFINITION. What the host sees and does beside issuing words: the register read port (R22, R44, R306), reset (R302), and the placing
of a word where the next step takes it. -/

namespace Sys2Proof.Machine

/-- A result register: defined only with `BUSY = 0`, `RV = 1` and the register in the result set of `LOP` (R44, R306). -/
def readResult (s : State) (r : ResultReg) (v : Word) : Except Fault Word :=
  if s.busy then .error .readWhileBusy
  else if Status.rv s.status && inResultSet s.lop r then .ok v
  else .error .unspecifiedResult

/-- A buffer byte: defined below the valid length only (R34, R35). -/
def readBuffer (m : Memory) (len : Byte) (i : Nat) : Except Fault Word :=
  if i < len.toNat then
    match Memory.read m i with
    | some b => .ok (b.setWidth 32)
    | none => .error .unwrittenByte
  else .error .unspecifiedBufferByte

/-- `ReadReg(n)` (R22): the register's whole value, zero-extended to 32 bits. A reserved index reads 0, while busy too (log 11). -/
def readReg (n : Byte) (s : State) : Except Fault Word :=
  match n.toNat with
  | 0x00 => .ok (s.cfg.setWidth 32)
  | 0x01 => .ok (s.status.setWidth 32)
  | 0x02 => .ok (s.att.setWidth 32)
  | 0x03 => .ok (s.txlen.setWidth 32)
  | 0x04 => .ok (s.rxlen.setWidth 32)
  | 0x05 => readResult s .plen (s.plen.setWidth 32)
  | 0x06 => readResult s .crcout (s.crcout.setWidth 32)
  | 0x07 => readResult s .divr (s.divr.setWidth 32)
  | 0x08 => readResult s .dd (s.dd.setWidth 32)
  | 0x09 => .ok (s.lop.setWidth 32)
  | 0x10 => readResult s .val0 s.val0
  | 0x11 => readResult s .val1 s.val1
  | 0x12 => readResult s .val2 s.val2
  | 0x13 => readResult s .val3 s.val3
  | i =>
    if 0x20 ≤ i ∧ i < 0x20 + Config.bufMax then readBuffer s.txbuf s.txlen (i - 0x20)
    else if 0x40 ≤ i ∧ i < 0x40 + Config.bufMax then readBuffer s.rxbuf s.rxlen (i - 0x40)
    else .ok 0

/-- One `ReadReg` as a step: it changes no register (R22, R306). -/
def readStep (n : Byte) (s : State) : Result :=
  match readReg n s with
  | .ok v => .next (s.logRead n v)
  | .error r => .fault r

/-- Reset at any step (R302): the reset values of R300, and nothing outside the MPE changed (R304). The draw counter goes on, so that no
draw is given twice (log 5). -/
def applyReset (s : State) : State := { State.reset with draws := s.draws, world := s.world }

/-- The engine idle, and this word the host's next move. -/
def State.offerWord (w : List Byte) (s : State) : State :=
  { s.withHost (.issue w :: s.world.host) with
    status := Status.setBusy s.status false
    seq := .idle }

/-- The engine in `SEND` with the frame of these command bytes in `TXBUF`, as the raw transaction of R112 for the address `DADDR` leaves
it after its accept step, and no move of the host before that step. -/
def State.offerCommand (c : List Byte) (s : State) : State :=
  match startXact s.daddr c .raw s with
  | .next t => t.withHost (.pass :: t.world.host)
  | .fault _ => s
  | .refused _ => s

end Sys2Proof.Machine
end

