-- ==== Sys2Proof/Machine/Engine.lean ====
section
/-! DEFINITION. The steps of the MPE with its outside world: the host's move, if it has one now, otherwise the engine's step (R12, R305,
R306; log 1). -/

namespace Sys2Proof.Machine

/-- The accept step (R305): an illegal word completes with `ILLEGAL_OP`, `LOP` its first byte or 0x00 (R43, R100, R277); any other runs
its operation. -/
def accept (w : List Byte) (s : State) : Host.Outcome State Fault Refusal :=
  match decodeAt .host w with
  | .ok i => exec i s
  | .error _ => .next (State.raise .illegalOp (w.headD 0x00) s)

/-- The `SEND` step (R182): a command of the catalogue runs as its wire instruction, any other command is sent all the same (R107). -/
def sendStep (s : State) : Host.Outcome State Fault Refusal :=
  match s.frame with
  | none => .fault .unwrittenByte
  | some f =>
    match decodeFrame f with
    | some i => exec i s
    | none => .next (sendFrame f s)

/-- The engine's step in its sequencer state; in `IDLE` it waits with all state kept (R289, R301). -/
def engineStep (s : State) : Host.Outcome State Fault Refusal :=
  match s.seq with
  | .idle => .next s
  | .send => sendStep s
  | .recv => recvStep s
  | .backoff => backoffStep s

/-- One step. A word is taken only while `BUSY = 0`; while `BUSY = 1` the port is held and the word waits (R305). A register read or a
reset falls between two steps of the engine (R302, R306). -/
def machineStep (s : State) : Host.Outcome State Fault Refusal :=
  match s.world.host with
  | .issue w :: rest => if s.busy then engineStep s else accept w (s.withHost rest)
  | .readReg n :: rest => readStep n (s.withHost rest)
  | .reset :: rest => .next (applyReset (s.withHost rest))
  | .pass :: rest => engineStep (s.withHost rest)
  | [] => engineStep s

end Sys2Proof.Machine
end

