-- ==== Sys2Proof/Machine/Step.lean ====
section
/-! DEFINITION. One step of the machine, and the placing of an opcode-table word where the next step takes it. -/

namespace Sys2Proof.Machine

/-- One step (Machine/Engine.lean). -/
def step (s : State) : Host.Outcome State Fault Refusal := machineStep s

/-- The state with an opcode-table word where the next step takes its instruction from: a host word at the issue port of an idle engine,
a wire command in the frame of a transaction about to be sent (logs 12, 13). -/
def State.withFetchWord (s : State) (nbits w : Nat) : State :=
  match tableWord nbits w with
  | (.host, b) => s.offerWord b
  | (.wire, c) => s.offerCommand c

end Sys2Proof.Machine
end

