-- ==== Sys2Proof/Safety.lean ====
section
/-! DEFINITION. The terms in which statements about the MPE are written: what a safe state is, and forms of the spec's rules that are
written from its own words and numbers, apart from the model's definitions. -/

namespace Sys2Proof.Machine

/-! ### The checksum in its bitwise form (R131, K3) -/

/-- One byte of the bitwise form: `CRCREG ^ byte`, then eight times a shift, with the polynomial when the bit shifted out is 1. -/
def bitwiseByte (r : Half) (b : Byte) : Half :=
  (List.range 8).foldl (fun c _ => if c.getLsbD 0 then (c >>> 1) ^^^ 0xA001 else c >>> 1) (r ^^^ b.setWidth 16)

/-- The register after a byte sequence, in the bitwise form. -/
def bitwiseCrc (s : List Byte) : Half := s.foldl bitwiseByte 0xFFFF

/-- The two CRC bytes of a frame as they are sent: the register's low byte, then its high byte (R132). -/
def sentCrc (s : List Byte) : List Byte := [(bitwiseCrc s).extractLsb' 0 8, (bitwiseCrc s).extractLsb' 8 8]

/-! ### Host words -/

/-- The opcodes of R92. -/
def opcodes : List Byte := [0x01, 0x02, 0x03, 0x04, 0x05, 0x10, 0x11, 0x20, 0x21, 0x22, 0x23, 0x24, 0x25, 0x26]

/-- A host word's length is the one R99 gives for its opcode; false too where the word is too short to hold its length byte. -/
def lengthIsRight (w : List Byte) : Prop :=
  (w.headD 0 = 0x01 ∨ w.headD 0 = 0x04 → 2 ≤ w.length ∧ w.length = 2 + (w.getD 1 0).toNat) ∧
  (w.headD 0 = 0x02 → 3 ≤ w.length ∧ w.length = 3 + (w.getD 2 0).toNat) ∧
  (w.headD 0 = 0x03 → 6 ≤ w.length ∧ w.length = 6 + (w.getD 5 0).toNat) ∧
  (w.headD 0 = 0x05 → w.length = 3) ∧
  (0x10 ≤ (w.headD 0).toNat → w.length = 1)

/-- An illegal host word: any of (a) to (e) of R100. -/
def IllegalWord (w : List Byte) : Prop :=
  w = [] ∨
  w.headD 0 ∉ opcodes ∨
  ¬ lengthIsRight w ∨
  (w.headD 0 = 0x05 ∧ (w.getD 1 0).toNat / 2 ≠ 0) ∨
  (w.headD 0 = 0x03 ∧ w.getD 2 0 = 0 ∧ w.getD 3 0 = 0)

/-! ### Transactions -/

/-- The family a `GET.*` operation measures. -/
def familyOf : Instr → Option Family
  | .getVolt => some .voltage
  | .getCurr => some .current
  | .getPreal => some .realPower
  | .getPreact => some .reactivePower
  | .getPapp => some .apparentPower
  | .getPf => some .powerFactor
  | .getEnergy => some .energy
  | _ => none

/-- The catalogue of R106, with its bytes written out: each wire command and what it says. -/
def catalogue : List (Instr × List Byte) :=
  [(.wireVolt, [0x08, 0x16, 0x11]), (.wireCurr, [0x08, 0x16, 0x21]), (.wirePreal, [0x08, 0x16, 0x00]),
   (.wirePreact, [0x08, 0x16, 0x04]), (.wirePapp, [0x08, 0x16, 0x08]), (.wirePf, [0x08, 0x16, 0x30]),
   (.wireEnergy, [0x05, 0x00, 0x00]), (.wireOpen, [0x01, 0x01, 0x01, 0x01, 0x01, 0x01, 0x01, 0x01]), (.wireClose, [0x02])]

/-- The command bytes of a family (R106). -/
def commandOf : Family → List Byte
  | .voltage => [0x08, 0x16, 0x11]
  | .current => [0x08, 0x16, 0x21]
  | .realPower => [0x08, 0x16, 0x00]
  | .reactivePower => [0x08, 0x16, 0x04]
  | .apparentPower => [0x08, 0x16, 0x08]
  | .powerFactor => [0x08, 0x16, 0x30]
  | .energy => [0x05, 0x00, 0x00]

/-- The transaction an operation starts in a state: address, command bytes and continuation (R180, R241 to R243). None where it starts
none: a pure operation, a command over 29 bytes, a measurement without a session. -/
def transactionOf (s : State) : Instr → Option (Byte × List Byte × Cont)
  | .xact a c => if c.length ≤ 29 then some (a, c, .raw) else none
  | .openSession => some (s.daddr, List.replicate 8 0x01, .opening)
  | .closeSession => some (s.daddr, [0x02], .closing)
  | .getVolt => if Status.sess s.status then some (s.daddr, commandOf .voltage, .get .voltage) else none
  | .getCurr => if Status.sess s.status then some (s.daddr, commandOf .current, .get .current) else none
  | .getPreal => if Status.sess s.status then some (s.daddr, commandOf .realPower, .get .realPower) else none
  | .getPreact => if Status.sess s.status then some (s.daddr, commandOf .reactivePower, .get .reactivePower) else none
  | .getPapp => if Status.sess s.status then some (s.daddr, commandOf .apparentPower, .get .apparentPower) else none
  | .getPf => if Status.sess s.status then some (s.daddr, commandOf .powerFactor, .get .powerFactor) else none
  | .getEnergy => if Status.sess s.status then some (s.daddr, commandOf .energy, .get .energy) else none
  | _ => none

/-- The events of consecutive attempts that send `f` and get the answers `rs`, oldest first, when `k` attempts came before: a wait of
50 ms times the number of attempts already made before every attempt but the first, then the write and the read (R185, R188, R189). -/
def attemptEvents (f : List Byte) : Nat → List (List Byte) → List Event
  | _, [] => []
  | k, r :: rs =>
    (if k = 0 then [] else [.delay (50 * k)]) ++ [.chWrite f, .chRead r] ++ attemptEvents f (k + 1) rs

/-- The outcome of an operation as the host reads it at its completion: `ERR`, `RV`, `LOP`, `BUSY` and `STATE` (R276, R281). -/
def Completed (t : State) (opc : Byte) (err : BitVec 4) : Prop :=
  Status.err t.status = err ∧ (Status.rv t.status = true ↔ err = 0) ∧ t.lop = opc ∧ Status.busy t.status = false ∧ t.seq = .idle

/-- The bits of `STATUS` that a completion leaves alone: `SESS`, `CLF`, `LERR` and the reserved bits. -/
def KeepsSession (s t : State) : Prop :=
  Status.sess t.status = Status.sess s.status ∧ Status.clf t.status = Status.clf s.status ∧
  Status.lerr t.status = Status.lerr s.status ∧ Status.reserved t.status = Status.reserved s.status

/-! ### Measurement slots -/

/-- `VAL0`..`VAL3` by slot. -/
def State.slot (s : State) (i : Fin 4) : Word :=
  match i with
  | 0 => s.val0
  | 1 => s.val1
  | 2 => s.val2
  | 3 => s.val3

/-! ### Safe states -/

/-- What holds in every state of a run, and rules out the states no run reaches. -/
structure SafeState (s : State) : Prop where
  /-- The buffers are in canonical form, with every index in 0..31 (R60). -/
  txCanonical : Memory.wf s.txbuf = true
  rxCanonical : Memory.wf s.rxbuf = true
  /-- `TXLEN` and `RXLEN` are 0..32 (R34, R35). -/
  txLength : s.txlen.toNat ≤ 32
  rxLength : s.rxlen.toNat ≤ 32
  /-- Every byte below the lengths has a value. -/
  txHeld : ∃ f, s.frame = some f
  rxHeld : ∃ r, s.response = some r
  /-- Reserved bits read as 0 (R23, R26, R41). -/
  cfgReserved : Cfg.reserved s.cfg = 0
  statusReserved : Status.reserved s.status = 0
  ddReserved : s.dd.toNat < 16
  /-- `ERR` is 0, 1, 3, 4, 5 or 6: `CHANNEL_ERROR` and 7..15 are never written (R31, R279). -/
  errLegal : (Status.err s.status).toNat ∈ [0, 1, 3, 4, 5, 6]
  /-- `LERR` is 0..4 (R32). -/
  lerrLegal : (Status.lerr s.status).toNat ≤ 4
  /-- `RV = 1` only with `ERR = 0` (R28). -/
  validResult : Status.rv s.status = true → Status.err s.status = 0
  /-- `ATT` never exceeds 16 (R33). -/
  attempts : s.att.toNat ≤ 16
  /-- "`STATE = IDLE` exactly when `STATUS.BUSY = 0`" (R38). -/
  busyState : s.busy = false ↔ s.seq = .idle
  /-- An attempt is left to make in `SEND` and `BACKOFF`; one is being made in `RECV`; a wait follows a failed attempt (R184, R185). -/
  sendCount : s.seq = .send → s.att.toNat < 16
  recvCount : s.seq = .recv → 1 ≤ s.att.toNat
  backoffCount : s.seq = .backoff → 1 ≤ s.att.toNat ∧ s.att.toNat < 16 ∧ Status.lerr s.status ≠ 0
  /-- While busy, `TXBUF` holds a request frame of at most 29 command bytes (R102). -/
  frameHeld : s.busy = true → ∃ a c, c.length ≤ 29 ∧ s.frame = some (a :: c ++ sentCrc (a :: c))
  /-- A measurement runs in an open session only (R251). -/
  sessionHeld : s.busy = true → ∀ f, s.cont = .get f → Status.sess s.status = true

end Sys2Proof.Machine
end

