-- ==== Sys2Proof/Certificates/Slice0/Obligations.lean ====
section
/-! DEFINITION. The statements for the provers, in the order of OBLIGATIONS.json: encoding, steps, checksum, validation, transactions,
decoding, configuration, the whole machine. Each docstring names the rule it formalises. -/

open Sys2Proof Sys2Proof.Machine

/-! ### Encoding -/

/-- R90 to R98, R106: at its own level, every instruction that has an encoding is decoded from it, with every operand at every value its field
holds. That `WCFG` with reserved bits set and `DEC3` with `DIV = 0` decode too is the model's own choice (log 14, DESIGN CHOICE): R100 (d) and (e)
call those words illegal, and they end with `ILLEGAL_OP` in their meanings. -/
def Obligations.DecodeEncodeRoundTrip : Prop :=
  ∀ i : Instr, i.encodable = true → decodeAt i.level (encode i) = .ok i

/-- R91 to R98: a host word that decodes is the encoding of the one instruction it decodes to. -/
def Obligations.EveryHostWordHasOneMeaning : Prop :=
  ∀ (w : List Byte) (i : Instr), decodeAt .host w = .ok i → encode i = w ∧ i.level = .host ∧ i.encodable = true

/-- R99: the length of a word that decodes, by its format; the table's length function finds it; 1 byte at least and 261 at most, both
reached. -/
def Obligations.WordLengthsFollowTheFormats : Prop :=
  (∀ (w : List Byte) (i : Instr), decodeAt .host w = .ok i →
    wordLength w = some w.length ∧ 1 ≤ w.length ∧ w.length ≤ 261 ∧
    (∀ d, i = .crc16 d → w.length = 2 + (w.getD 1 0).toNat) ∧
    (∀ p, i = .dec4 p → w.length = 2 + (w.getD 1 0).toNat) ∧
    (∀ a c, i = .xact a c → w.length = 3 + (w.getD 2 0).toNat) ∧
    (∀ m div e p, i = .dec3 m div e p → w.length = 6 + (w.getD 5 0).toNat) ∧
    (∀ c0 c1, i = .wcfg c0 c1 → w.length = 3) ∧
    (i = .openSession ∨ i = .closeSession ∨ (familyOf i).isSome = true → w.length = 1)) ∧
  (∀ (w : List Byte), (decodeAt .host w).isOk = true → wordLength w = some w.length) ∧
  (∃ w : List Byte, (decodeAt .host w).isOk = true ∧ w.length = 261) ∧
  (∃ w : List Byte, (decodeAt .host w).isOk = true ∧ w.length = 1)

/-- R94 to R98, R106, R111: words written out byte by byte from the formats decode to the instructions they stand for. -/
def Obligations.SampleWordsDecodeAsWritten : Prop :=
  decodeAt .host [0x01, 0x02, 0x31, 0x32] = .ok (.crc16 [0x31, 0x32]) ∧
  decodeAt .host [0x02, 0x05, 0x03, 0x08, 0x16, 0x11] = .ok (.xact 0x05 [0x08, 0x16, 0x11]) ∧
  decodeAt .host [0x03, 0x3F, 0xE8, 0x03, 0x0C, 0x01, 0x77] = .ok (.dec3 0x3F 1000 0x0C [0x77]) ∧
  decodeAt .host [0x04, 0x01, 0xFF] = .ok (.dec4 [0xFF]) ∧
  decodeAt .host [0x05, 0x01, 0xFF] = .ok (.wcfg 0x01 0xFF) ∧
  decodeAt .host [0x11] = .ok .closeSession ∧
  decodeAt .host [0x24] = .ok .getPapp ∧
  decodeAt .wire [0x08, 0x16, 0x30] = .ok .wirePf

/-- R100, R276, R277: an illegal word taken by an idle engine completes in that step with `ILLEGAL_OP`; `LOP` is its first byte, or 0x00
when it is empty; nothing else is written, and no event happens. -/
def Obligations.IllegalWordsCompleteWithIllegalOp : Prop :=
  ∀ (s : State) (w : List Byte) (rest : List HostMove),
    s.busy = false → s.world.host = .issue w :: rest → IllegalWord w →
    ∃ t, step s = .next t ∧ Completed t (w.headD 0x00) 5 ∧ KeepsSession s t ∧
      t = { s.withHost rest with status := t.status, lop := t.lop, seq := t.seq }

/-- R100, R101: exactly the words that are not illegal encode a well-formed instruction. -/
def Obligations.LegalWordsAreTheWellFormedInstructions : Prop :=
  ∀ w : List Byte, ¬ IllegalWord w ↔ ∃ i : Instr, i.level = .host ∧ i.wellFormed = true ∧ encode i = w

/-! ### Steps -/

/-- R91, R305 (log 1): an idle engine takes the host's next word whole and runs the instruction it decodes to; the word is then gone. -/
def Obligations.StepRunsTheDecodedWord : Prop :=
  ∀ (s : State) (w : List Byte) (rest : List HostMove) (i : Instr),
    s.busy = false → s.world.host = .issue w :: rest → decodeAt .host w = .ok i →
    step s = exec i (s.withHost rest)

/-- R102, R182 (log 12, and the CRC of log 15): in `SEND`, with the frame of a wire command in `TXBUF`, the step runs that wire command. -/
def Obligations.StepRunsTheWireCommandInSend : Prop :=
  ∀ (s : State) (a : Byte) (i : Instr) (c : List Byte),
    s.seq = .send → s.world.host = [] → (i, c) ∈ catalogue → s.frame = some (a :: c ++ sentCrc (a :: c)) →
    step s = exec i s

/-- R305 (log 1): while `BUSY = 1` the host's next word is not taken, not queued and not refused: the step is the engine's own, and the word is
still the host's next move after it. -/
def Obligations.IssuePortIsHeldWhileBusy : Prop :=
  ∀ (s t : State) (w : List Byte) (rest : List HostMove),
    s.busy = true → s.world.host = .issue w :: rest → step (s.withHost []) = .next t →
    step s = .next (t.withHost (.issue w :: rest))

/-! ### Checksum -/

/-- R130, R131 (the polynomial of log 15): the table form and the bitwise form give the same register for every byte sequence. -/
def Obligations.TableChecksumIsTheBitwiseChecksum : Prop :=
  ∀ s : List Byte, crc16Reg s = bitwiseCrc s

/-- R37, R132, R133 (the CRC of log 15): `CRC16` completes in its step with the byte-swapped register of its operand in `CRCOUT`, for any
number of bytes; no other register, buffer or event changes. -/
def Obligations.Crc16GivesTheSwappedChecksum : Prop :=
  ∀ (d : List Byte) (s : State), ∃ t, exec (.crc16 d) s = .next t ∧
    t.crcout.toNat = (bitwiseCrc d).toNat % 256 * 256 + (bitwiseCrc d).toNat / 256 ∧
    Completed t 0x01 0 ∧ KeepsSession s t ∧
    t = { s with crcout := t.crcout, status := t.status, lop := t.lop, seq := t.seq }

/-- R134 (a) and (b), for the CRC of log 15: the register of the empty sequence is 0xFFFF, and a sequence with its own checksum after it
leaves the residue 0. -/
def Obligations.ChecksumResidueIsZero : Prop :=
  crc16Reg [] = 0xFFFF ∧
  ∀ s : List Byte, crc16Reg (s ++ [(crc16Out s).extractLsb' 8 8, (crc16Out s).extractLsb' 0 8]) = 0

/-- R134 (c), for the CRC of log 15: flipping any one bit of a sequence with residue 0 gives a nonzero residue. -/
def Obligations.SingleBitErrorsAreDetected : Prop :=
  ∀ (f : List Byte) (k j : Nat), k < f.length → j < 8 → crc16Reg f = 0 →
    crc16Reg (f.set k (f.getD k 0 ^^^ BitVec.ofNat 8 (2 ^ j))) ≠ 0

/-! ### Validation -/

/-- R152 to R156, for the CRC of log 15: the checks in their order, the first failure being the code; `ICS` skips check (b) alone. -/
def Obligations.ValidationReportsTheFirstFailingCheck : Prop :=
  ∀ (r : List Byte) (a : Byte) (ics : Bool),
    let crcFails := ics = false ∧ ¬ ∃ p, r = p ++ sentCrc p
    (validate r a ics = some .invalidResponse ↔ r.length < 4) ∧
    (validate r a ics = some .badChecksum ↔ 4 ≤ r.length ∧ crcFails) ∧
    (validate r a ics = some .badAddress ↔ 4 ≤ r.length ∧ ¬ crcFails ∧ r.getD 0 0 ≠ a) ∧
    (validate r a ics = some .deviceError ↔
      4 ≤ r.length ∧ ¬ crcFails ∧ r.getD 0 0 = a ∧ r.length = 4 ∧ (r.getD 1 0).toNat % 16 ≠ 0) ∧
    (validate r a ics = none ↔
      4 ≤ r.length ∧ ¬ crcFails ∧ r.getD 0 0 = a ∧ (r.length = 4 → (r.getD 1 0).toNat % 16 = 0))

/-- R155, for the CRC of log 15: a response that validates, with one bit of its address byte flipped, reports `BAD_CHECKSUM`; with the
bypass on it reports `BAD_ADDRESS`. -/
def Obligations.AddressBitErrorReportsBadChecksum : Prop :=
  ∀ (r : List Byte) (a : Byte) (j : Nat), j < 8 → validate r a false = none →
    validate (r.set 0 (a ^^^ BitVec.ofNat 8 (2 ^ j))) a false = some .badChecksum ∧
    validate (r.set 0 (a ^^^ BitVec.ofNat 8 (2 ^ j))) a true = some .badAddress

/-- R154 (spec/90_conflicts.md C17), for the CRC of log 15: a good frame followed by `00 00` passes again; a good frame followed by one
byte `x` passes exactly when `x = 0` and the upper half of the register of all its bytes but the last is 0. -/
def Obligations.TrailingBytesAfterAGoodFrame : Prop :=
  ∀ (f : List Byte) (a : Byte), validate f a false = none →
    validate (f ++ [0x00, 0x00]) a false = none ∧
    ∀ x : Byte, validate (f ++ [x]) a false = none ↔
      x = 0 ∧ (crc16Reg (f.take (f.length - 1))).extractLsb' 8 8 = 0

/-! ### Transactions -/

/-- R150, R180, R181, R241 to R243, for the CRC of log 15: the accept step of `XACT` with at most 29 command bytes, of `OPEN`, of `CLOSE`,
and of every `GET.*` with `SESS = 1`, answers the state in which `TXBUF[0..TXLEN)` is the request frame, `LERR`, `ATT` and `RXLEN` are 0,
`CONT` is set, `BUSY` is 1 and `STATE` is `SEND`. Nothing else changes: no other register, no byte of `TXBUF` past the frame, nothing
outside. -/
def Obligations.AcceptStepStartsTheTransaction : Prop :=
  ∀ (s : State) (i : Instr) (a : Byte) (c : List Byte) (k : Cont), transactionOf s i = some (a, c, k) →
    ∃ t, exec i s = .next t ∧
      t.frame = some (a :: c ++ sentCrc (a :: c)) ∧ t.txlen.toNat = c.length + 3 ∧
      (∀ j, c.length + 3 ≤ j → Memory.read t.txbuf j = Memory.read s.txbuf j) ∧
      t.att = 0 ∧ t.rxlen = 0 ∧ t.cont = k ∧ t.seq = .send ∧
      Status.busy t.status = true ∧ Status.lerr t.status = 0 ∧
      Status.rv t.status = Status.rv s.status ∧ Status.err t.status = Status.err s.status ∧
      Status.sess t.status = Status.sess s.status ∧ Status.clf t.status = Status.clf s.status ∧
      Status.reserved t.status = Status.reserved s.status ∧
      t = { s with status := t.status, att := t.att, txbuf := t.txbuf, txlen := t.txlen, rxlen := t.rxlen, seq := t.seq, cont := t.cont }

/-- R151, R273: `XACT` with more than 29 command bytes completes with `INVALID_COMMAND`: no frame, no event, `TXLEN`, `RXLEN`, `ATT` and
`LERR` 0, nothing else written. A command of no bytes passes and gives the 3-byte frame of the address and its CRC. -/
def Obligations.TooLongCommandIsInvalid : Prop :=
  (∀ (a : Byte) (s : State), ∃ t, exec (.xact a []) s = .next t ∧
    t.frame = some [a, (crc16Out [a]).extractLsb' 8 8, (crc16Out [a]).extractLsb' 0 8] ∧ t.txlen = 3 ∧ t.seq = .send) ∧
  ∀ (a : Byte) (c : List Byte) (s : State), 29 < c.length →
    ∃ t, exec (.xact a c) s = .next t ∧ Completed t 0x02 1 ∧
      t.txlen = 0 ∧ t.rxlen = 0 ∧ t.att = 0 ∧ Status.lerr t.status = 0 ∧
      Status.sess t.status = Status.sess s.status ∧ Status.clf t.status = Status.clf s.status ∧
      Status.reserved t.status = Status.reserved s.status ∧
      t = { s with status := t.status, lop := t.lop, seq := t.seq, txlen := t.txlen, rxlen := t.rxlen, att := t.att }

/-- R251, R278: a `GET.*` with `SESS = 0` completes at once with `SESSION_CLOSED`, with no event and no transaction register written. -/
def Obligations.MeasurementWithoutSessionIsRefused : Prop :=
  ∀ (i : Instr) (f : Family) (s : State), familyOf i = some f → Status.sess s.status = false →
    ∃ t, exec i s = .next t ∧ Completed t ((encode i).headD 0) 6 ∧ KeepsSession s t ∧
      t = { s with status := t.status, lop := t.lop, seq := t.seq }

/-- R182: `SEND` is one step with one event, the whole of `TXBUF[0..TXLEN)` written to the channel; `ATT` counts it and `RECV` follows. It
is so for every command, in the catalogue or not (R107). -/
def Obligations.SendStepWritesTheWholeFrame : Prop :=
  ∀ (s : State) (f : List Byte), s.seq = .send → s.world.host = [] → s.frame = some f →
    step s = .next { s with
      att := s.att + 1
      seq := .recv
      world := { s.world with events := .chWrite f :: s.world.events } }

/-- R102, R106, R182 (log 12, and the CRC of log 15): each wire command of the catalogue, run in `SEND` for the address in `TXBUF[0]`,
puts its frame on the channel, counts an attempt and goes to `RECV`; nothing else changes. -/
def Obligations.WireCommandsSendTheirFrames : Prop :=
  ∀ (s : State) (i : Instr) (c : List Byte) (a : Byte), (i, c) ∈ catalogue → s.seq = .send → Memory.read s.txbuf 0 = some a →
    exec i s = .next { s with
      att := s.att + 1
      seq := .recv
      world := { s.world with events := .chWrite (a :: c ++ sentCrc (a :: c)) :: s.world.events } }

/-- R35, R183, R184: an attempt before the 16th whose response fails a check stores the response and the check's code and goes to
`BACKOFF`, whichever check it is; nothing else changes. -/
def Obligations.FailedAttemptGoesToBackoff : Prop :=
  ∀ (s : State) (r : List Byte) (rest : List (List Byte)) (a : Byte) (v : ValidationError),
    s.seq = .recv → s.world.host = [] → s.world.answers = r :: rest → r.length ≤ 32 →
    Memory.read s.txbuf 0 = some a → validate r a s.ics = some v → s.att ≠ 16 →
    ∃ t, step s = .next t ∧ t.response = some r ∧ t.rxlen.toNat = r.length ∧
      (∀ j, r.length ≤ j → Memory.read t.rxbuf j = Memory.read s.rxbuf j) ∧
      Status.lerr t.status = v.code ∧ t.seq = .backoff ∧
      Status.busy t.status = Status.busy s.status ∧ Status.rv t.status = Status.rv s.status ∧
      Status.sess t.status = Status.sess s.status ∧ Status.clf t.status = Status.clf s.status ∧
      Status.err t.status = Status.err s.status ∧ Status.reserved t.status = Status.reserved s.status ∧
      t = { s with
        status := t.status
        rxbuf := t.rxbuf
        rxlen := t.rxlen
        seq := t.seq
        world := { s.world with answers := rest, events := .chRead r :: s.world.events } }

/-- R187, R274, R241, R242: the 16th failed attempt ends the transaction. `XACT` and a `GET.*` end with `TRANSACTION_ERROR`; `OPEN` too, with
`SESS` 0; `CLOSE` ends without an error, with `SESS` 0 and `CLF` 1. The last check's code and response and the request stay readable. -/
def Obligations.SixteenthFailureEndsTheTransaction : Prop :=
  ∀ (s : State) (r : List Byte) (rest : List (List Byte)) (a : Byte) (v : ValidationError),
    s.seq = .recv → s.world.host = [] → s.world.answers = r :: rest → r.length ≤ 32 →
    Memory.read s.txbuf 0 = some a → validate r a s.ics = some v → s.att = 16 →
    ∃ t, step s = .next t ∧ t.response = some r ∧ t.rxlen.toNat = r.length ∧
      (∀ j, r.length ≤ j → Memory.read t.rxbuf j = Memory.read s.rxbuf j) ∧ Status.lerr t.status = v.code ∧
      (s.cont = .raw → Completed t 0x02 3 ∧ Status.sess t.status = Status.sess s.status) ∧
      (s.cont = .opening → Completed t 0x10 3 ∧ Status.sess t.status = false) ∧
      (s.cont = .closing → Completed t 0x11 0 ∧ Status.sess t.status = false ∧ Status.clf t.status = true) ∧
      (∀ f, s.cont = .get f → Completed t (Opcode.get f) 3 ∧ Status.sess t.status = Status.sess s.status) ∧
      (s.cont ≠ .closing → Status.clf t.status = Status.clf s.status) ∧
      Status.reserved t.status = Status.reserved s.status ∧
      t = { s with
        status := t.status
        lop := t.lop
        rxbuf := t.rxbuf
        rxlen := t.rxlen
        seq := t.seq
        world := { s.world with answers := rest, events := .chRead r :: s.world.events } }

/-- R185: once the timer reports it, `BACKOFF` is one step with one event, a delay of 50 ms times `ATT`, and `SEND` follows. -/
def Obligations.BackoffWaitsFiftyMillisecondsPerAttempt : Prop :=
  ∀ (s : State) (left : Nat), s.seq = .backoff → s.world.host = [] → s.world.timer = left + 1 →
    step s = .next { s with
      seq := .send
      world := { s.world with timer := left, events := .delay (50 * s.att.toNat) :: s.world.events } }

/-- R36, R157, R183, R186, R241, R242: a response that validates ends a raw, an open or a close transaction. The response is stored, `PLEN` is
its length less 3 (1..29) and the payload is its bytes but the address and the CRC; `LERR` and `ATT` are kept; `OPEN` sets `SESS`, `CLOSE`
clears `SESS` and `CLF`. -/
def Obligations.ValidResponseEndsTheTransaction : Prop :=
  ∀ (s : State) (r : List Byte) (rest : List (List Byte)) (a : Byte),
    s.seq = .recv → s.world.host = [] → s.world.answers = r :: rest → r.length ≤ 32 →
    Memory.read s.txbuf 0 = some a → validate r a s.ics = none → (∀ f, s.cont ≠ .get f) →
    ∃ t, step s = .next t ∧ t.response = some r ∧ t.rxlen.toNat = r.length ∧
      (∀ j, r.length ≤ j → Memory.read t.rxbuf j = Memory.read s.rxbuf j) ∧
      t.plen.toNat = r.length - 3 ∧ 1 ≤ t.plen.toNat ∧ t.plen.toNat ≤ 29 ∧
      (∀ p, t.payload = some p → r.drop 1 = p ++ r.drop (r.length - 2)) ∧ t.payload.isSome = true ∧
      (s.cont = .raw → Completed t 0x02 0 ∧ Status.sess t.status = Status.sess s.status ∧ Status.clf t.status = Status.clf s.status) ∧
      (s.cont = .opening → Completed t 0x10 0 ∧ Status.sess t.status = true ∧ Status.clf t.status = Status.clf s.status) ∧
      (s.cont = .closing → Completed t 0x11 0 ∧ Status.sess t.status = false ∧ Status.clf t.status = false) ∧
      Status.lerr t.status = Status.lerr s.status ∧ Status.reserved t.status = Status.reserved s.status ∧
      t = { s with
        status := t.status
        lop := t.lop
        rxbuf := t.rxbuf
        rxlen := t.rxlen
        plen := t.plen
        seq := t.seq
        world := { s.world with answers := rest, events := .chRead r :: s.world.events } }

/-- R108, R186, R211, R213, R217, R243 to R249: a validating response of the right length ends a measurement of one of the six 3-byte families
with its slots decoded by the family's mask and divisor. A slot whose bytes lie past the payload is flagged in `DD` and has no value stated
here: it is a draw (log 5). -/
def Obligations.MeasurementDecodesThreeByteRegisters : Prop :=
  ∀ (s : State) (r : List Byte) (rest : List (List Byte)) (a : Byte) (f : Family) (mask divisor len : Nat),
    (f, mask, divisor, len) ∈ [(Family.voltage, 0xFF, 100, 9), (.current, 0xFF, 1000, 9), (.realPower, 0x3F, 100, 12),
      (.reactivePower, 0x3F, 100, 12), (.apparentPower, 0x3F, 100, 12), (.powerFactor, 0x3F, 1000, 12)] →
    s.seq = .recv → s.cont = .get f → s.world.host = [] → s.world.answers = r :: rest → r.length ≤ 32 →
    Memory.read s.txbuf 0 = some a → validate r a s.ics = none → r.length - 3 = len →
    ∃ t, step s = .next t ∧ Completed t (Opcode.get f) 0 ∧ KeepsSession s t ∧
      t.response = some r ∧ t.rxlen.toNat = r.length ∧ t.plen.toNat = len ∧ t.divr.toNat = divisor ∧
      (∀ j, r.length ≤ j → Memory.read t.rxbuf j = Memory.read s.rxbuf j) ∧
      (∀ i : Fin 4, 3 * i.val + 2 < len →
        (t.slot i).toNat = ((r.getD (1 + 3 * i.val) 0).toNat &&& mask) * 65536 + (r.getD (3 + 3 * i.val) 0).toNat * 256
          + (r.getD (2 + 3 * i.val) 0).toNat) ∧
      t.dd.toNat = (if len = 9 then 8 else 0) ∧
      t = { s with
        status := t.status
        lop := t.lop
        rxbuf := t.rxbuf
        rxlen := t.rxlen
        plen := t.plen
        val0 := t.val0
        val1 := t.val1
        val2 := t.val2
        val3 := t.val3
        dd := t.dd
        divr := t.divr
        seq := t.seq
        draws := t.draws
        world := { s.world with answers := rest, events := .chRead r :: s.world.events } }

/-- R109, R186, R214 to R217, R243, R250: a validating 19-byte response ends an energy measurement with its four registers in the order d1 d0 d3
d2 from the top, all-ones read as 0, `DIVR` 1 and no slot flagged. -/
def Obligations.MeasurementDecodesEnergyRegisters : Prop :=
  ∀ (s : State) (r : List Byte) (rest : List (List Byte)) (a : Byte),
    s.seq = .recv → s.cont = .get .energy → s.world.host = [] → s.world.answers = r :: rest → r.length = 19 →
    Memory.read s.txbuf 0 = some a → validate r a s.ics = none →
    ∃ t, step s = .next t ∧ Completed t 0x26 0 ∧ KeepsSession s t ∧
      t.response = some r ∧ t.rxlen.toNat = 19 ∧ t.plen.toNat = 16 ∧ t.divr.toNat = 1 ∧ t.dd = 0 ∧
      (∀ j, 19 ≤ j → Memory.read t.rxbuf j = Memory.read s.rxbuf j) ∧
      (∀ i : Fin 4,
        let v := (r.getD (2 + 4 * i.val) 0).toNat * 16777216 + (r.getD (1 + 4 * i.val) 0).toNat * 65536
          + (r.getD (4 + 4 * i.val) 0).toNat * 256 + (r.getD (3 + 4 * i.val) 0).toNat
        (t.slot i).toNat = if v = 4294967295 then 0 else v) ∧
      t = { s with
        status := t.status
        lop := t.lop
        rxbuf := t.rxbuf
        rxlen := t.rxlen
        plen := t.plen
        val0 := t.val0
        val1 := t.val1
        val2 := t.val2
        val3 := t.val3
        dd := t.dd
        divr := t.divr
        seq := t.seq
        world := { s.world with answers := rest, events := .chRead r :: s.world.events } }

/-- R220, R243, R275: a validating response of any other payload length ends a measurement with `DECODE_ERROR`, in that step and not retried:
`SESS`, `ATT` and `LERR` are kept, and so is the request; no decoded register is written. -/
def Obligations.MeasurementOfWrongLengthIsADecodeError : Prop :=
  ∀ (s : State) (r : List Byte) (rest : List (List Byte)) (a : Byte) (f : Family),
    s.seq = .recv → s.cont = .get f → s.world.host = [] → s.world.answers = r :: rest → r.length ≤ 32 →
    Memory.read s.txbuf 0 = some a → validate r a s.ics = none →
    r.length - 3 ≠ (match f with | .voltage => 9 | .current => 9 | .energy => 16 | _ => 12) →
    ∃ t, step s = .next t ∧ Completed t (Opcode.get f) 4 ∧ KeepsSession s t ∧ t.response = some r ∧ t.rxlen.toNat = r.length ∧
      (∀ j, r.length ≤ j → Memory.read t.rxbuf j = Memory.read s.rxbuf j) ∧
      t = { s with
        status := t.status
        lop := t.lop
        rxbuf := t.rxbuf
        rxlen := t.rxlen
        plen := t.plen
        seq := t.seq
        world := { s.world with answers := rest, events := .chRead r :: s.world.events } }

/-- R188, R189, R313: a transaction ends at the first attempt whose response validates, or after the 16th, whatever operation started it. With
`m` attempts it takes exactly `3m` steps, the accept step included, and is busy at each of them but the last; its events are exactly `m`
writes of the request frame and `m` reads, with the backoff schedule between them. The premises on the answers and the timer are `CH_LIVE`
for this run (R311; logs 1 to 3), and the frame has the CRC of log 15. -/
def Obligations.TransactionEndsAfterItsAttempts : Prop :=
  ∀ (s : State) (w : List Byte) (i : Instr) (a : Byte) (c : List Byte) (k : Cont) (rs rest : List (List Byte)),
    s.busy = false → s.world.host = [.issue w] → decodeAt .host w = .ok i → transactionOf s i = some (a, c, k) →
    s.world.answers = rs ++ rest → 1 ≤ rs.length → rs.length ≤ 16 → rs.length ≤ s.world.timer + 1 →
    (∀ r ∈ rs, r.length ≤ 32) →
    (∀ r ∈ rs.dropLast, validate r a s.ics ≠ none) →
    (rs.length = 16 ∨ ∃ r, rs.getLast? = some r ∧ validate r a s.ics = none) →
    (∃ t, Sys2Proof.core.run (3 * rs.length) s = .next t ∧ t.busy = false ∧ t.seq = .idle ∧
      t.att.toNat = rs.length ∧ t.response = rs.getLast? ∧ t.frame = some (a :: c ++ sentCrc (a :: c)) ∧
      t.world.events = (attemptEvents (a :: c ++ sentCrc (a :: c)) 0 rs).reverse ++ s.world.events ∧
      t.world.answers = rest ∧ t.world.timer + rs.length = s.world.timer + 1) ∧
    ∀ n, 1 ≤ n → n < 3 * rs.length → ∃ u, Sys2Proof.core.run n s = .next u ∧ u.busy = true

/-- R191, R305, R311 (logs 2, 3 and 10): while the channel does not return, the engine stays in `RECV`, and while the timer does not report, in
`BACKOFF`, for any number of steps, with every register kept and the port held. -/
def Obligations.HangsAreKept : Prop :=
  ∀ (s : State) (n : Nat), s.busy = true → (s.world.host = [] ∨ ∃ w rest, s.world.host = .issue w :: rest) →
    (s.seq = .recv ∧ s.world.answers = [] ∨ s.seq = .backoff ∧ s.world.timer = 0) →
    Sys2Proof.core.run n s = .next s

/-! ### Decoding -/

/-- R41, R108, R211 to R213: `DEC3` with a legal divisor and a payload of the expected length completes with every register inside the payload
assembled as `((d0 & M) << 16) | (d2 << 8) | d1`, every slot past it flagged in `DD` and left to a draw (log 5), and `DIVR` the operand; nothing
else changes. -/
def Obligations.Dec3DecodesEverySlot : Prop :=
  ∀ (m : Byte) (div : Half) (e : Byte) (p : List Byte) (s : State), div ≠ 0 → p.length = e.toNat →
    ∃ t, exec (.dec3 m div e p) s = .next t ∧ Completed t 0x03 0 ∧ KeepsSession s t ∧ t.divr = div ∧ t.dd.toNat < 16 ∧
      (∀ i : Fin 4, t.dd.getLsbD i.val = decide (p.length ≤ 3 * i.val + 2)) ∧
      (∀ i : Fin 4, 3 * i.val + 2 < p.length →
        (t.slot i).toNat = ((p.getD (3 * i.val) 0) &&& m).toNat * 65536 + (p.getD (3 * i.val + 2) 0).toNat * 256
          + (p.getD (3 * i.val + 1) 0).toNat) ∧
      t = { s with
        status := t.status
        lop := t.lop
        val0 := t.val0
        val1 := t.val1
        val2 := t.val2
        val3 := t.val3
        dd := t.dd
        divr := t.divr
        seq := t.seq
        draws := t.draws }

/-- R220, R275: `DEC3` and `DEC4` with a payload of any other length complete with `DECODE_ERROR` and write no result register. -/
def Obligations.DecodeOfWrongLengthIsADecodeError : Prop :=
  (∀ (m : Byte) (div : Half) (e : Byte) (p : List Byte) (s : State), div ≠ 0 → p.length ≠ e.toNat →
    ∃ t, exec (.dec3 m div e p) s = .next t ∧ Completed t 0x03 4 ∧ KeepsSession s t ∧
      t = { s with status := t.status, lop := t.lop, seq := t.seq }) ∧
  (∀ (p : List Byte) (s : State), p.length ≠ 16 →
    ∃ t, exec (.dec4 p) s = .next t ∧ Completed t 0x04 4 ∧ KeepsSession s t ∧
      t = { s with status := t.status, lop := t.lop, seq := t.seq })

/-- R109, R214 to R216: `DEC4` with 16 payload bytes completes with each register `(d1 << 24) | (d0 << 16) | (d3 << 8) | d2`, all-ones read as 0,
no slot flagged and `DIVR` 1; nothing else changes. -/
def Obligations.Dec4DecodesEveryRegister : Prop :=
  ∀ (p : List Byte) (s : State), p.length = 16 →
    ∃ t, exec (.dec4 p) s = .next t ∧ Completed t 0x04 0 ∧ KeepsSession s t ∧ t.divr.toNat = 1 ∧ t.dd = 0 ∧
      (∀ i : Fin 4,
        let v := (p.getD (4 * i.val + 1) 0).toNat * 16777216 + (p.getD (4 * i.val) 0).toNat * 65536
          + (p.getD (4 * i.val + 3) 0).toNat * 256 + (p.getD (4 * i.val + 2) 0).toNat
        (t.slot i).toNat = if v = 4294967295 then 0 else v) ∧
      t = { s with
        status := t.status
        lop := t.lop
        val0 := t.val0
        val1 := t.val1
        val2 := t.val2
        val3 := t.val3
        dd := t.dd
        divr := t.divr
        seq := t.seq }

/-- R216: after `DEC4` of 16 bytes a slot is 0 exactly when its four bytes are all 0x00 or all 0xFF, and never 0xFFFFFFFF: zero and "not
available" cannot be told apart. The 3-byte layout has no sentinel: whatever the mask and the payload, a slot inside the payload is 0 exactly
when `d0 & M`, `d1` and `d2` are all 0; and `FF FF FF` with mask 0xFF decodes to 16777215. -/
def Obligations.SentinelReadsAsZero : Prop :=
  (∀ (p : List Byte) (s t : State), p.length = 16 → exec (.dec4 p) s = .next t → ∀ i : Fin 4,
    (t.slot i = 0 ↔ (p.drop (4 * i.val)).take 4 = List.replicate 4 0x00 ∨ (p.drop (4 * i.val)).take 4 = List.replicate 4 0xFF) ∧
    t.slot i ≠ 0xFFFFFFFF ∧ t.dd = 0) ∧
  (∀ (m : Byte) (div : Half) (e : Byte) (p : List Byte) (s : State), div ≠ 0 → p.length = e.toNat →
    ∃ t, exec (.dec3 m div e p) s = .next t ∧ ∀ i : Fin 4, 3 * i.val + 2 < p.length →
      (t.slot i = 0 ↔ (p.getD (3 * i.val) 0) &&& m = 0 ∧ p.getD (3 * i.val + 1) 0 = 0 ∧ p.getD (3 * i.val + 2) 0 = 0)) ∧
  (∀ (div : Half) (s : State), div ≠ 0 → ∃ t, exec (.dec3 0xFF div 3 [0xFF, 0xFF, 0xFF]) s = .next t ∧ t.val0.toNat = 16777215)

/-- R211, R219: a 3-byte register is below 2^24, and below 2^22 with the mask 0x3F: bits 31:24 are 0 and the flag bits are discarded, never a
sign. -/
def Obligations.ThreeByteValuesAreUnsigned : Prop :=
  ∀ (m : Byte) (div : Half) (e : Byte) (p : List Byte) (s t : State), div ≠ 0 → p.length = e.toNat →
    exec (.dec3 m div e p) s = .next t → ∀ i : Fin 4, t.dd.getLsbD i.val = false →
      (t.slot i).toNat < 2 ^ 24 ∧ (m = 0x3F → (t.slot i).toNat < 2 ^ 22)

/-! ### Configuration -/

/-- R23, R98, R240: `WCFG` with reserved bits 0 completes with `CFG` as its two bytes give it; nothing else changes. -/
def Obligations.WcfgWritesTheConfiguration : Prop :=
  ∀ (c0 c1 : Byte) (s : State), c0.toNat < 2 →
    ∃ t, exec (.wcfg c0 c1) s = .next t ∧ t.cfg.toNat = c1.toNat * 256 + c0.toNat ∧
      t.ics = decide (c0 = 1) ∧ t.daddr = c1 ∧ Completed t 0x05 0 ∧ KeepsSession s t ∧
      t = { s with cfg := t.cfg, status := t.status, lop := t.lop, seq := t.seq }

/-- R100 (d) and (e), R240: reserved bits set in `WCFG`, and a `DEC3` divisor of 0, complete with `ILLEGAL_OP`, with `CFG` and every result register
unchanged. -/
def Obligations.IllegalOperandsCompleteWithIllegalOp : Prop :=
  (∀ (c0 c1 : Byte) (s : State), 2 ≤ c0.toNat →
    ∃ t, exec (.wcfg c0 c1) s = .next t ∧ Completed t 0x05 5 ∧ KeepsSession s t ∧
      t = { s with status := t.status, lop := t.lop, seq := t.seq }) ∧
  (∀ (m e : Byte) (p : List Byte) (s : State),
    ∃ t, exec (.dec3 m 0 e p) s = .next t ∧ Completed t 0x03 5 ∧ KeepsSession s t ∧
      t = { s with status := t.status, lop := t.lop, seq := t.seq })

/-- R25, R47, R180: `XACT` uses neither `CFG.DADDR` nor `STATUS.SESS`: with any other configuration and session it starts the same transaction. -/
def Obligations.RawTransactionIgnoresAddressAndSession : Prop :=
  ∀ (a : Byte) (c : List Byte) (s : State) (cfg : Half) (sess : Bool) (t : State), exec (.xact a c) s = .next t →
    ∃ u, exec (.xact a c) { s with cfg := cfg, status := Status.setSess s.status sess } = .next u ∧
      Status.sess u.status = sess ∧ u = { t with cfg := cfg, status := u.status } ∧
      Status.busy u.status = Status.busy t.status ∧ Status.err u.status = Status.err t.status ∧
      Status.rv u.status = Status.rv t.status ∧ Status.lerr u.status = Status.lerr t.status ∧ Status.clf u.status = Status.clf t.status

/-! ### The whole machine -/

/-- R300, R301: right after reset `CFG`, `STATUS`, `ATT`, `LOP`, `TXLEN` and `RXLEN` read 0, the engine waits in `IDLE`, and every result register and
every buffer byte is unspecified: reading one faults. -/
def Obligations.ResetLeavesTheResetState : Prop :=
  State.reset.cfg = 0 ∧ State.reset.status = 0 ∧ State.reset.att = 0 ∧ State.reset.lop = 0 ∧
  State.reset.txlen = 0 ∧ State.reset.rxlen = 0 ∧ State.reset.seq = .idle ∧
  readReg 0x00 State.reset = .ok 0 ∧ readReg 0x01 State.reset = .ok 0 ∧
  (∀ n : Byte, n ∈ [0x05, 0x06, 0x07, 0x08, 0x10, 0x11, 0x12, 0x13] → readReg n State.reset = .error .unspecifiedResult) ∧
  (∀ n : Byte, 0x20 ≤ n.toNat → n.toNat ≤ 0x5F → readReg n State.reset = .error .unspecifiedBufferByte) ∧
  step State.reset = .next State.reset

/-- R302, R304: reset at any step, busy or not, gives every register of R300 its reset value at once, with no completion; nothing outside the MPE
changes, and no event happens. -/
def Obligations.ResetActsAtAnyStep : Prop :=
  ∀ (s : State) (rest : List HostMove), s.world.host = .reset :: rest →
    ∃ t, step s = .next t ∧ t.world = { s.world with host := rest } ∧
      t.cfg = 0 ∧ t.status = 0 ∧ t.att = 0 ∧ t.lop = 0 ∧ t.txlen = 0 ∧ t.rxlen = 0 ∧ t.seq = .idle ∧
      (∀ j, Memory.read t.txbuf j = none) ∧ (∀ j, Memory.read t.rxbuf j = none)

/-- R22: the read port's index map: each register's whole value, zero-extended; a reserved index reads 0; and a read is a step that
changes no register. That a reserved index reads 0 while `BUSY = 1` too is the model's reading (log 11, DEDUCED): R306 names registers
only. The result registers are those of R44, read here where they are defined. -/
def Obligations.ReadPortFollowsTheIndexMap : Prop :=
  ∀ s : State,
    readReg 0x00 s = .ok (s.cfg.setWidth 32) ∧ readReg 0x01 s = .ok (s.status.setWidth 32) ∧
    readReg 0x02 s = .ok (s.att.setWidth 32) ∧ readReg 0x03 s = .ok (s.txlen.setWidth 32) ∧
    readReg 0x04 s = .ok (s.rxlen.setWidth 32) ∧ readReg 0x09 s = .ok (s.lop.setWidth 32) ∧
    (∀ v, readReg 0x05 s = .ok v → v = s.plen.setWidth 32) ∧ (∀ v, readReg 0x06 s = .ok v → v = s.crcout.setWidth 32) ∧
    (∀ v, readReg 0x07 s = .ok v → v = s.divr.setWidth 32) ∧ (∀ v, readReg 0x08 s = .ok v → v = s.dd.setWidth 32) ∧
    (∀ (i : Fin 4) (v : Word), readReg (0x10 + BitVec.ofNat 8 i.val) s = .ok v → v = s.slot i) ∧
    (∀ (i : Nat) (b : Byte), i < 32 → i < s.txlen.toNat → Memory.read s.txbuf i = some b →
      readReg (BitVec.ofNat 8 (0x20 + i)) s = .ok (b.setWidth 32)) ∧
    (∀ (i : Nat) (b : Byte), i < 32 → i < s.rxlen.toNat → Memory.read s.rxbuf i = some b →
      readReg (BitVec.ofNat 8 (0x40 + i)) s = .ok (b.setWidth 32)) ∧
    (∀ n : Byte, (0x0A ≤ n.toNat ∧ n.toNat ≤ 0x0F ∨ 0x14 ≤ n.toNat ∧ n.toNat ≤ 0x1F ∨ 0x60 ≤ n.toNat) → readReg n s = .ok 0) ∧
    (∀ (n : Byte) (v : Word) (rest : List HostMove), s.world.host = .readReg n :: rest → readReg n s = .ok v →
      step s = .next { s with world := { s.world with host := rest, reads := (n, v) :: s.world.reads } })

/-- R44: a result register reads a value exactly when `BUSY = 0`, `RV = 1` and it is in the result set of `LOP`, by the table of R44; otherwise
the read faults. `CFG`, `STATUS`, `ATT`, `LOP`, the lengths and the buffer bytes below them always read a value while `BUSY = 0`. -/
def Obligations.ResultRegistersAreDefinedInTheirResultSet : Prop :=
  (∀ (s : State) (n : Byte), n ∈ [0x05, 0x06, 0x07, 0x08, 0x10, 0x11, 0x12, 0x13] →
    let decodeRegs : List Byte := [0x07, 0x08, 0x10, 0x11, 0x12, 0x13]
    let inSet : Prop :=
      (s.lop = 0x01 ∧ n = 0x06) ∨
      ((s.lop = 0x02 ∨ s.lop = 0x10) ∧ n = 0x05) ∨
      ((s.lop = 0x03 ∨ s.lop = 0x04) ∧ n ∈ decodeRegs) ∨
      (0x20 ≤ s.lop.toNat ∧ s.lop.toNat ≤ 0x26 ∧ (n = 0x05 ∨ n ∈ decodeRegs))
    ((∃ v, readReg n s = .ok v) ↔ s.busy = false ∧ Status.rv s.status = true ∧ inSet) ∧
    ((∀ v, readReg n s ≠ .ok v) → ∃ r, readReg n s = .error r ∧ (r = .unspecifiedResult ∨ r = .readWhileBusy))) ∧
  (∀ (s : State), s.busy = false →
    (∀ n : Byte, n ∈ [0x00, 0x01, 0x02, 0x03, 0x04, 0x09] → ∃ v, readReg n s = .ok v) ∧
    (∀ (f : List Byte) (i : Nat), s.frame = some f → i < f.length → i < 32 → ∃ v, readReg (BitVec.ofNat 8 (0x20 + i)) s = .ok v) ∧
    (∀ (r : List Byte) (i : Nat), s.response = some r → i < r.length → i < 32 → ∃ v, readReg (BitVec.ofNat 8 (0x40 + i)) s = .ok v))

/-- R306: while `BUSY = 1`, `CFG`, `STATUS`, `ATT`, `LOP`, the lengths and the buffer bytes below them read their current value, every result register
faults, and a buffer byte at or above the length faults. -/
def Obligations.ReadsWhileBusy : Prop :=
  ∀ s : State, s.busy = true →
    (∀ n : Byte, n ∈ [0x05, 0x06, 0x07, 0x08, 0x10, 0x11, 0x12, 0x13] → readReg n s = .error .readWhileBusy) ∧
    readReg 0x00 s = .ok (s.cfg.setWidth 32) ∧ readReg 0x01 s = .ok (s.status.setWidth 32) ∧
    readReg 0x02 s = .ok (s.att.setWidth 32) ∧ readReg 0x03 s = .ok (s.txlen.setWidth 32) ∧
    readReg 0x04 s = .ok (s.rxlen.setWidth 32) ∧ readReg 0x09 s = .ok (s.lop.setWidth 32) ∧
    (∀ (f : List Byte) (i : Nat) (b : Byte), s.frame = some f → i < 32 → f[i]? = some b →
      readReg (BitVec.ofNat 8 (0x20 + i)) s = .ok (b.setWidth 32)) ∧
    (∀ (r : List Byte) (i : Nat) (b : Byte), s.response = some r → i < 32 → r[i]? = some b →
      readReg (BitVec.ofNat 8 (0x40 + i)) s = .ok (b.setWidth 32)) ∧
    (∀ i : Nat, i < 32 → s.txlen.toNat ≤ i → readReg (BitVec.ofNat 8 (0x20 + i)) s = .error .unspecifiedBufferByte) ∧
    (∀ i : Nat, i < 32 → s.rxlen.toNat ≤ i → readReg (BitVec.ofNat 8 (0x40 + i)) s = .error .unspecifiedBufferByte)

/-- R300: the reset state is safe. `DD`, which R300 leaves unspecified, stands in it with the model's value (log 6). -/
def Obligations.ResetStateIsSafe : Prop := SafeState State.reset

/-- R23, R26, R28, R31 to R35, R38, R41, R60, R102, R184, R185, R251: every step from a safe state leads to a safe state. The frame that a busy state
holds in `TXBUF` has the CRC of log 15 (PRESUMED). -/
def Obligations.EveryStepKeepsTheStateSafe : Prop :=
  ∀ s t : State, SafeState s → step s = .next t → SafeState t

/-- R9, R270, spec/93_implementation_defined.md U1 to U5: from a safe state (its frame with the CRC of log 15) a step stops only where the
host reads a register that the spec leaves unspecified, and no step is ever refused. So no operation and no step of the engine stops the
machine. -/
def Obligations.OnlyUnspecifiedReadsStopTheMachine : Prop :=
  ∀ s : State, SafeState s →
    (∀ r, step s ≠ .refused r) ∧
    (∀ r, step s = .fault r → (∃ n rest, s.world.host = .readReg n :: rest) ∧
      (r = .unspecifiedResult ∨ r = .unspecifiedBufferByte ∨ r = .readWhileBusy))

/-- R46: which operations write which registers. In any step that is not a reset: `CFG` changes only where `WCFG` is accepted; `CRCOUT`
only where `CRC16` is; `SESS` only where an `OPEN` or `CLOSE` transaction ends, and `CLF` only where a `CLOSE` does; `LERR`, `ATT`,
`TXBUF`, `TXLEN`, `RXBUF` and `RXLEN` only where a transaction operation is accepted or runs; `PLEN` only where a transaction ends with a
response that validates; `VAL0`..`VAL3`, `DD` and `DIVR` only where `DEC3` or `DEC4` is accepted or a `GET.*` ends without an error;
`BUSY`, `RV`, `ERR` and `LOP` only where an operation is accepted or completes. A `GET.*` without a session writes no transaction
register, nor does an illegal word. -/
def Obligations.OnlyTheListedWritersWriteARegister : Prop :=
  ∀ s t : State, step s = .next t → (∀ rest, s.world.host ≠ .reset :: rest) →
    let accepts (P : Instr → Prop) : Prop :=
      s.busy = false ∧ ∃ w rest i, s.world.host = .issue w :: rest ∧ decodeAt .host w = .ok i ∧ P i
    let transactionOp (i : Instr) : Prop :=
      (∃ a c, i = .xact a c) ∨ i = .openSession ∨ i = .closeSession ∨ ((familyOf i).isSome = true ∧ Status.sess s.status = true)
    let ends : Prop := s.seq = .recv ∧ t.seq = .idle
    let acceptsOrEnds : Prop := (s.busy = false ∧ ∃ w rest, s.world.host = .issue w :: rest) ∨ ends
    (t.cfg ≠ s.cfg → accepts (fun i => ∃ c0 c1, i = .wcfg c0 c1)) ∧
    (t.crcout ≠ s.crcout → accepts (fun i => ∃ d, i = .crc16 d)) ∧
    (Status.sess t.status ≠ Status.sess s.status → ends ∧ (s.cont = .opening ∨ s.cont = .closing)) ∧
    (Status.clf t.status ≠ Status.clf s.status → ends ∧ s.cont = .closing) ∧
    (Status.lerr t.status ≠ Status.lerr s.status → accepts transactionOp ∨ s.seq = .recv) ∧
    (t.att ≠ s.att → accepts transactionOp ∨ s.seq = .send) ∧
    (t.txbuf ≠ s.txbuf ∨ t.txlen ≠ s.txlen → accepts transactionOp) ∧
    (t.rxbuf ≠ s.rxbuf → s.seq = .recv) ∧
    (t.rxlen ≠ s.rxlen → accepts transactionOp ∨ s.seq = .recv) ∧
    (t.plen ≠ s.plen → ends ∧ ∃ r a, t.response = some r ∧ Memory.read s.txbuf 0 = some a ∧ validate r a s.ics = none) ∧
    (t.divr ≠ s.divr ∨ t.dd ≠ s.dd ∨ (∃ i, t.slot i ≠ s.slot i) →
      accepts (fun i => (∃ m div e p, i = .dec3 m div e p) ∨ ∃ p, i = .dec4 p) ∨
      (ends ∧ ∃ f, s.cont = .get f ∧ Completed t (Opcode.get f) 0)) ∧
    (t.lop ≠ s.lop ∨ Status.err t.status ≠ Status.err s.status ∨ Status.rv t.status ≠ Status.rv s.status ∨ t.busy ≠ s.busy →
      acceptsOrEnds)
end

