-- ==== Sys2Proof/Laws/Flags.lean ====
section
/-! SUPPORT. The fields of `STATUS` and `CFG` under their updates: what a field reads after a write of it, and that no other field
changes. -/

namespace Sys2Proof.Machine

/-- A bit of a register after one of its fields is put: the field's bit inside the field, the old bit outside. -/
theorem getLsbD_putField {n : Nat} (r : Half) (lo : Nat) (v : BitVec n) (i : Nat) (hi : i < 16) :
    (putField r lo v).getLsbD i = if lo ≤ i ∧ i < lo + n then v.getLsbD (i - lo) else r.getLsbD i := by
  unfold putField
  simp only [BitVec.getLsbD_or, BitVec.getLsbD_and, BitVec.getLsbD_not, BitVec.getLsbD_shiftLeft, BitVec.getLsbD_setWidth,
    BitVec.getLsbD_allOnes]
  by_cases h1 : lo ≤ i
  · by_cases h2 : i < lo + n
    · have h3 : i - lo < n := by omega
      have h4 : i - lo < 16 := by omega
      have h5 : ¬ i < lo := by omega
      simp [h1, h2, h3, h4, h5, hi]
    · have h3 : ¬ i - lo < n := by omega
      have h5 : ¬ i < lo := by omega
      simp [h1, h2, h3, h5, hi, BitVec.getLsbD_of_ge v (i - lo) (by omega)]
  · have h5 : i < lo := by omega
    simp [h1, h5, hi]

/-- The field that was put reads as put. -/
theorem getField_putField_same {n : Nat} (r : Half) (lo : Nat) (v : BitVec n) (h : lo + n ≤ 16) :
    getField (putField r lo v) lo n = v := by
  apply BitVec.eq_of_getLsbD_eq
  intro i hi
  have hb : lo + i < 16 := by omega
  have hc : lo ≤ lo + i ∧ lo + i < lo + n := by omega
  simp [getField, hi, getLsbD_putField r lo v (lo + i) hb]

/-- A field apart from the one that was put reads as before. -/
theorem getField_putField_other {n k : Nat} (r : Half) (lo at' : Nat) (v : BitVec n) (h : at' + k ≤ 16)
    (apart : at' + k ≤ lo ∨ lo + n ≤ at') : getField (putField r lo v) at' k = getField r at' k := by
  apply BitVec.eq_of_getLsbD_eq
  intro i hi
  have hb : at' + i < 16 := by omega
  have hc : ¬ (lo ≤ at' + i ∧ at' + i < lo + n) := by omega
  simp [getField, hi, getLsbD_putField r lo v (at' + i) hb, hc]

/-- A bit apart from the field that was put reads as before. -/
theorem getLsbD_putField_other {n : Nat} (r : Half) (lo i : Nat) (v : BitVec n) (hi : i < 16) (apart : i < lo ∨ lo + n ≤ i) :
    (putField r lo v).getLsbD i = r.getLsbD i := by
  have hc : ¬ (lo ≤ i ∧ i < lo + n) := by omega
  simp [getLsbD_putField r lo v i hi, hc]

/-- A one-bit field that was put reads as put. -/
theorem getLsbD_putField_bit (r : Half) (lo : Nat) (b : Bool) (h : lo < 16) :
    (putField r lo (BitVec.ofBool b)).getLsbD lo = b := by
  have hc : lo ≤ lo ∧ lo < lo + 1 := by omega
  simp [getLsbD_putField r lo (BitVec.ofBool b) lo h]

/-! ### STATUS -/

@[simp] theorem Status.busy_setBusy (st : Half) (b : Bool) : Status.busy (Status.setBusy st b) = b :=
  getLsbD_putField_bit st 0 b (by omega)

@[simp] theorem Status.rv_setBusy (st : Half) (b : Bool) : Status.rv (Status.setBusy st b) = Status.rv st :=
  getLsbD_putField_other st 0 1 _ (by omega) (by omega)

@[simp] theorem Status.sess_setBusy (st : Half) (b : Bool) : Status.sess (Status.setBusy st b) = Status.sess st :=
  getLsbD_putField_other st 0 2 _ (by omega) (by omega)

@[simp] theorem Status.clf_setBusy (st : Half) (b : Bool) : Status.clf (Status.setBusy st b) = Status.clf st :=
  getLsbD_putField_other st 0 3 _ (by omega) (by omega)

@[simp] theorem Status.err_setBusy (st : Half) (b : Bool) : Status.err (Status.setBusy st b) = Status.err st :=
  getField_putField_other st 0 4 _ (by omega) (by omega)

@[simp] theorem Status.lerr_setBusy (st : Half) (b : Bool) : Status.lerr (Status.setBusy st b) = Status.lerr st :=
  getField_putField_other st 0 8 _ (by omega) (by omega)

@[simp] theorem Status.reserved_setBusy (st : Half) (b : Bool) : Status.reserved (Status.setBusy st b) = Status.reserved st :=
  getField_putField_other st 0 11 _ (by omega) (by omega)

@[simp] theorem Status.busy_setRv (st : Half) (b : Bool) : Status.busy (Status.setRv st b) = Status.busy st :=
  getLsbD_putField_other st 1 0 _ (by omega) (by omega)

@[simp] theorem Status.rv_setRv (st : Half) (b : Bool) : Status.rv (Status.setRv st b) = b :=
  getLsbD_putField_bit st 1 b (by omega)

@[simp] theorem Status.sess_setRv (st : Half) (b : Bool) : Status.sess (Status.setRv st b) = Status.sess st :=
  getLsbD_putField_other st 1 2 _ (by omega) (by omega)

@[simp] theorem Status.clf_setRv (st : Half) (b : Bool) : Status.clf (Status.setRv st b) = Status.clf st :=
  getLsbD_putField_other st 1 3 _ (by omega) (by omega)

@[simp] theorem Status.err_setRv (st : Half) (b : Bool) : Status.err (Status.setRv st b) = Status.err st :=
  getField_putField_other st 1 4 _ (by omega) (by omega)

@[simp] theorem Status.lerr_setRv (st : Half) (b : Bool) : Status.lerr (Status.setRv st b) = Status.lerr st :=
  getField_putField_other st 1 8 _ (by omega) (by omega)

@[simp] theorem Status.reserved_setRv (st : Half) (b : Bool) : Status.reserved (Status.setRv st b) = Status.reserved st :=
  getField_putField_other st 1 11 _ (by omega) (by omega)

@[simp] theorem Status.busy_setSess (st : Half) (b : Bool) : Status.busy (Status.setSess st b) = Status.busy st :=
  getLsbD_putField_other st 2 0 _ (by omega) (by omega)

@[simp] theorem Status.rv_setSess (st : Half) (b : Bool) : Status.rv (Status.setSess st b) = Status.rv st :=
  getLsbD_putField_other st 2 1 _ (by omega) (by omega)

@[simp] theorem Status.sess_setSess (st : Half) (b : Bool) : Status.sess (Status.setSess st b) = b :=
  getLsbD_putField_bit st 2 b (by omega)

@[simp] theorem Status.clf_setSess (st : Half) (b : Bool) : Status.clf (Status.setSess st b) = Status.clf st :=
  getLsbD_putField_other st 2 3 _ (by omega) (by omega)

@[simp] theorem Status.err_setSess (st : Half) (b : Bool) : Status.err (Status.setSess st b) = Status.err st :=
  getField_putField_other st 2 4 _ (by omega) (by omega)

@[simp] theorem Status.lerr_setSess (st : Half) (b : Bool) : Status.lerr (Status.setSess st b) = Status.lerr st :=
  getField_putField_other st 2 8 _ (by omega) (by omega)

@[simp] theorem Status.reserved_setSess (st : Half) (b : Bool) : Status.reserved (Status.setSess st b) = Status.reserved st :=
  getField_putField_other st 2 11 _ (by omega) (by omega)

@[simp] theorem Status.busy_setClf (st : Half) (b : Bool) : Status.busy (Status.setClf st b) = Status.busy st :=
  getLsbD_putField_other st 3 0 _ (by omega) (by omega)

@[simp] theorem Status.rv_setClf (st : Half) (b : Bool) : Status.rv (Status.setClf st b) = Status.rv st :=
  getLsbD_putField_other st 3 1 _ (by omega) (by omega)

@[simp] theorem Status.sess_setClf (st : Half) (b : Bool) : Status.sess (Status.setClf st b) = Status.sess st :=
  getLsbD_putField_other st 3 2 _ (by omega) (by omega)

@[simp] theorem Status.clf_setClf (st : Half) (b : Bool) : Status.clf (Status.setClf st b) = b :=
  getLsbD_putField_bit st 3 b (by omega)

@[simp] theorem Status.err_setClf (st : Half) (b : Bool) : Status.err (Status.setClf st b) = Status.err st :=
  getField_putField_other st 3 4 _ (by omega) (by omega)

@[simp] theorem Status.lerr_setClf (st : Half) (b : Bool) : Status.lerr (Status.setClf st b) = Status.lerr st :=
  getField_putField_other st 3 8 _ (by omega) (by omega)

@[simp] theorem Status.reserved_setClf (st : Half) (b : Bool) : Status.reserved (Status.setClf st b) = Status.reserved st :=
  getField_putField_other st 3 11 _ (by omega) (by omega)

@[simp] theorem Status.busy_setErr (st : Half) (e : BitVec 4) : Status.busy (Status.setErr st e) = Status.busy st :=
  getLsbD_putField_other st 4 0 _ (by omega) (by omega)

@[simp] theorem Status.rv_setErr (st : Half) (e : BitVec 4) : Status.rv (Status.setErr st e) = Status.rv st :=
  getLsbD_putField_other st 4 1 _ (by omega) (by omega)

@[simp] theorem Status.sess_setErr (st : Half) (e : BitVec 4) : Status.sess (Status.setErr st e) = Status.sess st :=
  getLsbD_putField_other st 4 2 _ (by omega) (by omega)

@[simp] theorem Status.clf_setErr (st : Half) (e : BitVec 4) : Status.clf (Status.setErr st e) = Status.clf st :=
  getLsbD_putField_other st 4 3 _ (by omega) (by omega)

@[simp] theorem Status.err_setErr (st : Half) (e : BitVec 4) : Status.err (Status.setErr st e) = e :=
  getField_putField_same st 4 e (by omega)

@[simp] theorem Status.lerr_setErr (st : Half) (e : BitVec 4) : Status.lerr (Status.setErr st e) = Status.lerr st :=
  getField_putField_other st 4 8 _ (by omega) (by omega)

@[simp] theorem Status.reserved_setErr (st : Half) (e : BitVec 4) : Status.reserved (Status.setErr st e) = Status.reserved st :=
  getField_putField_other st 4 11 _ (by omega) (by omega)

@[simp] theorem Status.busy_setLerr (st : Half) (e : BitVec 3) : Status.busy (Status.setLerr st e) = Status.busy st :=
  getLsbD_putField_other st 8 0 _ (by omega) (by omega)

@[simp] theorem Status.rv_setLerr (st : Half) (e : BitVec 3) : Status.rv (Status.setLerr st e) = Status.rv st :=
  getLsbD_putField_other st 8 1 _ (by omega) (by omega)

@[simp] theorem Status.sess_setLerr (st : Half) (e : BitVec 3) : Status.sess (Status.setLerr st e) = Status.sess st :=
  getLsbD_putField_other st 8 2 _ (by omega) (by omega)

@[simp] theorem Status.clf_setLerr (st : Half) (e : BitVec 3) : Status.clf (Status.setLerr st e) = Status.clf st :=
  getLsbD_putField_other st 8 3 _ (by omega) (by omega)

@[simp] theorem Status.err_setLerr (st : Half) (e : BitVec 3) : Status.err (Status.setLerr st e) = Status.err st :=
  getField_putField_other st 8 4 _ (by omega) (by omega)

@[simp] theorem Status.lerr_setLerr (st : Half) (e : BitVec 3) : Status.lerr (Status.setLerr st e) = e :=
  getField_putField_same st 8 e (by omega)

@[simp] theorem Status.reserved_setLerr (st : Half) (e : BitVec 3) : Status.reserved (Status.setLerr st e) = Status.reserved st :=
  getField_putField_other st 8 11 _ (by omega) (by omega)

/-! ### CFG -/

/-- A bit of `(C1 << 8) | C0`. -/
theorem Cfg.getLsbD_ofBytes (c0 c1 : Byte) (i : Nat) :
    (Cfg.ofBytes c0 c1).getLsbD i = if i < 8 then c0.getLsbD i else c1.getLsbD (i - 8) :=
  (BitVec.getLsbD_append (x := c1) (y := c0) (i := i)).trans (by cases h : decide (i < 8) <;> simp_all)

@[simp] theorem Cfg.ics_ofBytes (c0 c1 : Byte) : Cfg.ics (Cfg.ofBytes c0 c1) = c0.getLsbD 0 :=
  Cfg.getLsbD_ofBytes c0 c1 0

@[simp] theorem Cfg.daddr_ofBytes (c0 c1 : Byte) : Cfg.daddr (Cfg.ofBytes c0 c1) = c1 := by
  apply BitVec.eq_of_getLsbD_eq
  intro i hi
  have h8 : ¬ 8 + i < 8 := by omega
  simp [Cfg.daddr, getField, hi, Cfg.getLsbD_ofBytes, h8]

/-- A legal `C0` leaves the reserved bits 0 (R23, R100 (d)). -/
theorem Cfg.reserved_ofBytes (c0 c1 : Byte) (h : legalConfig c0 = true) : Cfg.reserved (Cfg.ofBytes c0 c1) = 0 := by
  have h0 : c0 >>> 1 = 0 := by simpa [legalConfig] using h
  apply BitVec.eq_of_getLsbD_eq
  intro i hi
  have hz : (c0 >>> 1).getLsbD i = false := by simp [h0]
  have h8 : 1 + i < 8 := by omega
  simp only [BitVec.getLsbD_ushiftRight] at hz
  rw [BitVec.getLsbD_eq_getElem h8] at hz
  simp [Cfg.reserved, getField, hi, Cfg.getLsbD_ofBytes, h8, hz]

end Sys2Proof.Machine
end

