-- ==== Sys2Proof/Laws/State.lean ====
section
/-! SUPPORT. One lemma per field per named update of the state, so that no proof unfolds one. -/

namespace Sys2Proof.Machine

/-! ### State.withHost -/

@[simp] theorem State.withHost_cfg (s : State) (h : List HostMove) : (State.withHost s h).cfg = s.cfg := rfl
@[simp] theorem State.withHost_status (s : State) (h : List HostMove) : (State.withHost s h).status = s.status := rfl
@[simp] theorem State.withHost_att (s : State) (h : List HostMove) : (State.withHost s h).att = s.att := rfl
@[simp] theorem State.withHost_lop (s : State) (h : List HostMove) : (State.withHost s h).lop = s.lop := rfl
@[simp] theorem State.withHost_txbuf (s : State) (h : List HostMove) : (State.withHost s h).txbuf = s.txbuf := rfl
@[simp] theorem State.withHost_txlen (s : State) (h : List HostMove) : (State.withHost s h).txlen = s.txlen := rfl
@[simp] theorem State.withHost_rxbuf (s : State) (h : List HostMove) : (State.withHost s h).rxbuf = s.rxbuf := rfl
@[simp] theorem State.withHost_rxlen (s : State) (h : List HostMove) : (State.withHost s h).rxlen = s.rxlen := rfl
@[simp] theorem State.withHost_plen (s : State) (h : List HostMove) : (State.withHost s h).plen = s.plen := rfl
@[simp] theorem State.withHost_crcout (s : State) (h : List HostMove) : (State.withHost s h).crcout = s.crcout := rfl
@[simp] theorem State.withHost_val0 (s : State) (h : List HostMove) : (State.withHost s h).val0 = s.val0 := rfl
@[simp] theorem State.withHost_val1 (s : State) (h : List HostMove) : (State.withHost s h).val1 = s.val1 := rfl
@[simp] theorem State.withHost_val2 (s : State) (h : List HostMove) : (State.withHost s h).val2 = s.val2 := rfl
@[simp] theorem State.withHost_val3 (s : State) (h : List HostMove) : (State.withHost s h).val3 = s.val3 := rfl
@[simp] theorem State.withHost_dd (s : State) (h : List HostMove) : (State.withHost s h).dd = s.dd := rfl
@[simp] theorem State.withHost_divr (s : State) (h : List HostMove) : (State.withHost s h).divr = s.divr := rfl
@[simp] theorem State.withHost_seq (s : State) (h : List HostMove) : (State.withHost s h).seq = s.seq := rfl
@[simp] theorem State.withHost_cont (s : State) (h : List HostMove) : (State.withHost s h).cont = s.cont := rfl
@[simp] theorem State.withHost_draws (s : State) (h : List HostMove) : (State.withHost s h).draws = s.draws := rfl
@[simp] theorem State.withHost_host (s : State) (h : List HostMove) : (State.withHost s h).world.host = h := rfl
@[simp] theorem State.withHost_answers (s : State) (h : List HostMove) : (State.withHost s h).world.answers = s.world.answers := rfl
@[simp] theorem State.withHost_timer (s : State) (h : List HostMove) : (State.withHost s h).world.timer = s.world.timer := rfl
@[simp] theorem State.withHost_events (s : State) (h : List HostMove) : (State.withHost s h).world.events = s.world.events := rfl
@[simp] theorem State.withHost_reads (s : State) (h : List HostMove) : (State.withHost s h).world.reads = s.world.reads := rfl

/-! ### State.logEvent -/

@[simp] theorem State.logEvent_cfg (s : State) (e : Event) : (State.logEvent s e).cfg = s.cfg := rfl
@[simp] theorem State.logEvent_status (s : State) (e : Event) : (State.logEvent s e).status = s.status := rfl
@[simp] theorem State.logEvent_att (s : State) (e : Event) : (State.logEvent s e).att = s.att := rfl
@[simp] theorem State.logEvent_lop (s : State) (e : Event) : (State.logEvent s e).lop = s.lop := rfl
@[simp] theorem State.logEvent_txbuf (s : State) (e : Event) : (State.logEvent s e).txbuf = s.txbuf := rfl
@[simp] theorem State.logEvent_txlen (s : State) (e : Event) : (State.logEvent s e).txlen = s.txlen := rfl
@[simp] theorem State.logEvent_rxbuf (s : State) (e : Event) : (State.logEvent s e).rxbuf = s.rxbuf := rfl
@[simp] theorem State.logEvent_rxlen (s : State) (e : Event) : (State.logEvent s e).rxlen = s.rxlen := rfl
@[simp] theorem State.logEvent_plen (s : State) (e : Event) : (State.logEvent s e).plen = s.plen := rfl
@[simp] theorem State.logEvent_crcout (s : State) (e : Event) : (State.logEvent s e).crcout = s.crcout := rfl
@[simp] theorem State.logEvent_val0 (s : State) (e : Event) : (State.logEvent s e).val0 = s.val0 := rfl
@[simp] theorem State.logEvent_val1 (s : State) (e : Event) : (State.logEvent s e).val1 = s.val1 := rfl
@[simp] theorem State.logEvent_val2 (s : State) (e : Event) : (State.logEvent s e).val2 = s.val2 := rfl
@[simp] theorem State.logEvent_val3 (s : State) (e : Event) : (State.logEvent s e).val3 = s.val3 := rfl
@[simp] theorem State.logEvent_dd (s : State) (e : Event) : (State.logEvent s e).dd = s.dd := rfl
@[simp] theorem State.logEvent_divr (s : State) (e : Event) : (State.logEvent s e).divr = s.divr := rfl
@[simp] theorem State.logEvent_seq (s : State) (e : Event) : (State.logEvent s e).seq = s.seq := rfl
@[simp] theorem State.logEvent_cont (s : State) (e : Event) : (State.logEvent s e).cont = s.cont := rfl
@[simp] theorem State.logEvent_draws (s : State) (e : Event) : (State.logEvent s e).draws = s.draws := rfl
@[simp] theorem State.logEvent_host (s : State) (e : Event) : (State.logEvent s e).world.host = s.world.host := rfl
@[simp] theorem State.logEvent_answers (s : State) (e : Event) : (State.logEvent s e).world.answers = s.world.answers := rfl
@[simp] theorem State.logEvent_timer (s : State) (e : Event) : (State.logEvent s e).world.timer = s.world.timer := rfl
@[simp] theorem State.logEvent_events (s : State) (e : Event) : (State.logEvent s e).world.events = e :: s.world.events := rfl
@[simp] theorem State.logEvent_reads (s : State) (e : Event) : (State.logEvent s e).world.reads = s.world.reads := rfl

/-! ### State.takeAnswer -/

@[simp] theorem State.takeAnswer_cfg (s : State) (r : List Byte) (rest : List (List Byte)) : (State.takeAnswer s r rest).cfg = s.cfg := rfl
@[simp] theorem State.takeAnswer_status (s : State) (r : List Byte) (rest : List (List Byte)) : (State.takeAnswer s r rest).status = s.status := rfl
@[simp] theorem State.takeAnswer_att (s : State) (r : List Byte) (rest : List (List Byte)) : (State.takeAnswer s r rest).att = s.att := rfl
@[simp] theorem State.takeAnswer_lop (s : State) (r : List Byte) (rest : List (List Byte)) : (State.takeAnswer s r rest).lop = s.lop := rfl
@[simp] theorem State.takeAnswer_txbuf (s : State) (r : List Byte) (rest : List (List Byte)) : (State.takeAnswer s r rest).txbuf = s.txbuf := rfl
@[simp] theorem State.takeAnswer_txlen (s : State) (r : List Byte) (rest : List (List Byte)) : (State.takeAnswer s r rest).txlen = s.txlen := rfl
@[simp] theorem State.takeAnswer_rxbuf (s : State) (r : List Byte) (rest : List (List Byte)) : (State.takeAnswer s r rest).rxbuf = s.rxbuf := rfl
@[simp] theorem State.takeAnswer_rxlen (s : State) (r : List Byte) (rest : List (List Byte)) : (State.takeAnswer s r rest).rxlen = s.rxlen := rfl
@[simp] theorem State.takeAnswer_plen (s : State) (r : List Byte) (rest : List (List Byte)) : (State.takeAnswer s r rest).plen = s.plen := rfl
@[simp] theorem State.takeAnswer_crcout (s : State) (r : List Byte) (rest : List (List Byte)) : (State.takeAnswer s r rest).crcout = s.crcout := rfl
@[simp] theorem State.takeAnswer_val0 (s : State) (r : List Byte) (rest : List (List Byte)) : (State.takeAnswer s r rest).val0 = s.val0 := rfl
@[simp] theorem State.takeAnswer_val1 (s : State) (r : List Byte) (rest : List (List Byte)) : (State.takeAnswer s r rest).val1 = s.val1 := rfl
@[simp] theorem State.takeAnswer_val2 (s : State) (r : List Byte) (rest : List (List Byte)) : (State.takeAnswer s r rest).val2 = s.val2 := rfl
@[simp] theorem State.takeAnswer_val3 (s : State) (r : List Byte) (rest : List (List Byte)) : (State.takeAnswer s r rest).val3 = s.val3 := rfl
@[simp] theorem State.takeAnswer_dd (s : State) (r : List Byte) (rest : List (List Byte)) : (State.takeAnswer s r rest).dd = s.dd := rfl
@[simp] theorem State.takeAnswer_divr (s : State) (r : List Byte) (rest : List (List Byte)) : (State.takeAnswer s r rest).divr = s.divr := rfl
@[simp] theorem State.takeAnswer_seq (s : State) (r : List Byte) (rest : List (List Byte)) : (State.takeAnswer s r rest).seq = s.seq := rfl
@[simp] theorem State.takeAnswer_cont (s : State) (r : List Byte) (rest : List (List Byte)) : (State.takeAnswer s r rest).cont = s.cont := rfl
@[simp] theorem State.takeAnswer_draws (s : State) (r : List Byte) (rest : List (List Byte)) : (State.takeAnswer s r rest).draws = s.draws := rfl
@[simp] theorem State.takeAnswer_host (s : State) (r : List Byte) (rest : List (List Byte)) : (State.takeAnswer s r rest).world.host = s.world.host := rfl
@[simp] theorem State.takeAnswer_answers (s : State) (r : List Byte) (rest : List (List Byte)) : (State.takeAnswer s r rest).world.answers = rest := rfl
@[simp] theorem State.takeAnswer_timer (s : State) (r : List Byte) (rest : List (List Byte)) : (State.takeAnswer s r rest).world.timer = s.world.timer := rfl
@[simp] theorem State.takeAnswer_events (s : State) (r : List Byte) (rest : List (List Byte)) : (State.takeAnswer s r rest).world.events = .chRead r :: s.world.events := rfl
@[simp] theorem State.takeAnswer_reads (s : State) (r : List Byte) (rest : List (List Byte)) : (State.takeAnswer s r rest).world.reads = s.world.reads := rfl

/-! ### State.takeDelay -/

@[simp] theorem State.takeDelay_cfg (s : State) (ms left : Nat) : (State.takeDelay s ms left).cfg = s.cfg := rfl
@[simp] theorem State.takeDelay_status (s : State) (ms left : Nat) : (State.takeDelay s ms left).status = s.status := rfl
@[simp] theorem State.takeDelay_att (s : State) (ms left : Nat) : (State.takeDelay s ms left).att = s.att := rfl
@[simp] theorem State.takeDelay_lop (s : State) (ms left : Nat) : (State.takeDelay s ms left).lop = s.lop := rfl
@[simp] theorem State.takeDelay_txbuf (s : State) (ms left : Nat) : (State.takeDelay s ms left).txbuf = s.txbuf := rfl
@[simp] theorem State.takeDelay_txlen (s : State) (ms left : Nat) : (State.takeDelay s ms left).txlen = s.txlen := rfl
@[simp] theorem State.takeDelay_rxbuf (s : State) (ms left : Nat) : (State.takeDelay s ms left).rxbuf = s.rxbuf := rfl
@[simp] theorem State.takeDelay_rxlen (s : State) (ms left : Nat) : (State.takeDelay s ms left).rxlen = s.rxlen := rfl
@[simp] theorem State.takeDelay_plen (s : State) (ms left : Nat) : (State.takeDelay s ms left).plen = s.plen := rfl
@[simp] theorem State.takeDelay_crcout (s : State) (ms left : Nat) : (State.takeDelay s ms left).crcout = s.crcout := rfl
@[simp] theorem State.takeDelay_val0 (s : State) (ms left : Nat) : (State.takeDelay s ms left).val0 = s.val0 := rfl
@[simp] theorem State.takeDelay_val1 (s : State) (ms left : Nat) : (State.takeDelay s ms left).val1 = s.val1 := rfl
@[simp] theorem State.takeDelay_val2 (s : State) (ms left : Nat) : (State.takeDelay s ms left).val2 = s.val2 := rfl
@[simp] theorem State.takeDelay_val3 (s : State) (ms left : Nat) : (State.takeDelay s ms left).val3 = s.val3 := rfl
@[simp] theorem State.takeDelay_dd (s : State) (ms left : Nat) : (State.takeDelay s ms left).dd = s.dd := rfl
@[simp] theorem State.takeDelay_divr (s : State) (ms left : Nat) : (State.takeDelay s ms left).divr = s.divr := rfl
@[simp] theorem State.takeDelay_seq (s : State) (ms left : Nat) : (State.takeDelay s ms left).seq = s.seq := rfl
@[simp] theorem State.takeDelay_cont (s : State) (ms left : Nat) : (State.takeDelay s ms left).cont = s.cont := rfl
@[simp] theorem State.takeDelay_draws (s : State) (ms left : Nat) : (State.takeDelay s ms left).draws = s.draws := rfl
@[simp] theorem State.takeDelay_host (s : State) (ms left : Nat) : (State.takeDelay s ms left).world.host = s.world.host := rfl
@[simp] theorem State.takeDelay_answers (s : State) (ms left : Nat) : (State.takeDelay s ms left).world.answers = s.world.answers := rfl
@[simp] theorem State.takeDelay_timer (s : State) (ms left : Nat) : (State.takeDelay s ms left).world.timer = left := rfl
@[simp] theorem State.takeDelay_events (s : State) (ms left : Nat) : (State.takeDelay s ms left).world.events = .delay ms :: s.world.events := rfl
@[simp] theorem State.takeDelay_reads (s : State) (ms left : Nat) : (State.takeDelay s ms left).world.reads = s.world.reads := rfl

/-! ### State.logRead -/

@[simp] theorem State.logRead_cfg (s : State) (n : Byte) (v : Word) : (State.logRead s n v).cfg = s.cfg := rfl
@[simp] theorem State.logRead_status (s : State) (n : Byte) (v : Word) : (State.logRead s n v).status = s.status := rfl
@[simp] theorem State.logRead_att (s : State) (n : Byte) (v : Word) : (State.logRead s n v).att = s.att := rfl
@[simp] theorem State.logRead_lop (s : State) (n : Byte) (v : Word) : (State.logRead s n v).lop = s.lop := rfl
@[simp] theorem State.logRead_txbuf (s : State) (n : Byte) (v : Word) : (State.logRead s n v).txbuf = s.txbuf := rfl
@[simp] theorem State.logRead_txlen (s : State) (n : Byte) (v : Word) : (State.logRead s n v).txlen = s.txlen := rfl
@[simp] theorem State.logRead_rxbuf (s : State) (n : Byte) (v : Word) : (State.logRead s n v).rxbuf = s.rxbuf := rfl
@[simp] theorem State.logRead_rxlen (s : State) (n : Byte) (v : Word) : (State.logRead s n v).rxlen = s.rxlen := rfl
@[simp] theorem State.logRead_plen (s : State) (n : Byte) (v : Word) : (State.logRead s n v).plen = s.plen := rfl
@[simp] theorem State.logRead_crcout (s : State) (n : Byte) (v : Word) : (State.logRead s n v).crcout = s.crcout := rfl
@[simp] theorem State.logRead_val0 (s : State) (n : Byte) (v : Word) : (State.logRead s n v).val0 = s.val0 := rfl
@[simp] theorem State.logRead_val1 (s : State) (n : Byte) (v : Word) : (State.logRead s n v).val1 = s.val1 := rfl
@[simp] theorem State.logRead_val2 (s : State) (n : Byte) (v : Word) : (State.logRead s n v).val2 = s.val2 := rfl
@[simp] theorem State.logRead_val3 (s : State) (n : Byte) (v : Word) : (State.logRead s n v).val3 = s.val3 := rfl
@[simp] theorem State.logRead_dd (s : State) (n : Byte) (v : Word) : (State.logRead s n v).dd = s.dd := rfl
@[simp] theorem State.logRead_divr (s : State) (n : Byte) (v : Word) : (State.logRead s n v).divr = s.divr := rfl
@[simp] theorem State.logRead_seq (s : State) (n : Byte) (v : Word) : (State.logRead s n v).seq = s.seq := rfl
@[simp] theorem State.logRead_cont (s : State) (n : Byte) (v : Word) : (State.logRead s n v).cont = s.cont := rfl
@[simp] theorem State.logRead_draws (s : State) (n : Byte) (v : Word) : (State.logRead s n v).draws = s.draws := rfl
@[simp] theorem State.logRead_host (s : State) (n : Byte) (v : Word) : (State.logRead s n v).world.host = s.world.host := rfl
@[simp] theorem State.logRead_answers (s : State) (n : Byte) (v : Word) : (State.logRead s n v).world.answers = s.world.answers := rfl
@[simp] theorem State.logRead_timer (s : State) (n : Byte) (v : Word) : (State.logRead s n v).world.timer = s.world.timer := rfl
@[simp] theorem State.logRead_events (s : State) (n : Byte) (v : Word) : (State.logRead s n v).world.events = s.world.events := rfl
@[simp] theorem State.logRead_reads (s : State) (n : Byte) (v : Word) : (State.logRead s n v).world.reads = (n, v) :: s.world.reads := rfl

/-! ### State.raise -/

@[simp] theorem State.raise_cfg (s : State) (e : ErrorCode) (opc : Byte) : (State.raise e opc s).cfg = s.cfg := rfl
@[simp] theorem State.raise_status (s : State) (e : ErrorCode) (opc : Byte) : (State.raise e opc s).status = Status.setBusy (Status.setRv (Status.setErr s.status e.code) false) false := rfl
@[simp] theorem State.raise_att (s : State) (e : ErrorCode) (opc : Byte) : (State.raise e opc s).att = s.att := rfl
@[simp] theorem State.raise_lop (s : State) (e : ErrorCode) (opc : Byte) : (State.raise e opc s).lop = opc := rfl
@[simp] theorem State.raise_txbuf (s : State) (e : ErrorCode) (opc : Byte) : (State.raise e opc s).txbuf = s.txbuf := rfl
@[simp] theorem State.raise_txlen (s : State) (e : ErrorCode) (opc : Byte) : (State.raise e opc s).txlen = s.txlen := rfl
@[simp] theorem State.raise_rxbuf (s : State) (e : ErrorCode) (opc : Byte) : (State.raise e opc s).rxbuf = s.rxbuf := rfl
@[simp] theorem State.raise_rxlen (s : State) (e : ErrorCode) (opc : Byte) : (State.raise e opc s).rxlen = s.rxlen := rfl
@[simp] theorem State.raise_plen (s : State) (e : ErrorCode) (opc : Byte) : (State.raise e opc s).plen = s.plen := rfl
@[simp] theorem State.raise_crcout (s : State) (e : ErrorCode) (opc : Byte) : (State.raise e opc s).crcout = s.crcout := rfl
@[simp] theorem State.raise_val0 (s : State) (e : ErrorCode) (opc : Byte) : (State.raise e opc s).val0 = s.val0 := rfl
@[simp] theorem State.raise_val1 (s : State) (e : ErrorCode) (opc : Byte) : (State.raise e opc s).val1 = s.val1 := rfl
@[simp] theorem State.raise_val2 (s : State) (e : ErrorCode) (opc : Byte) : (State.raise e opc s).val2 = s.val2 := rfl
@[simp] theorem State.raise_val3 (s : State) (e : ErrorCode) (opc : Byte) : (State.raise e opc s).val3 = s.val3 := rfl
@[simp] theorem State.raise_dd (s : State) (e : ErrorCode) (opc : Byte) : (State.raise e opc s).dd = s.dd := rfl
@[simp] theorem State.raise_divr (s : State) (e : ErrorCode) (opc : Byte) : (State.raise e opc s).divr = s.divr := rfl
@[simp] theorem State.raise_seq (s : State) (e : ErrorCode) (opc : Byte) : (State.raise e opc s).seq = .idle := rfl
@[simp] theorem State.raise_cont (s : State) (e : ErrorCode) (opc : Byte) : (State.raise e opc s).cont = s.cont := rfl
@[simp] theorem State.raise_draws (s : State) (e : ErrorCode) (opc : Byte) : (State.raise e opc s).draws = s.draws := rfl
@[simp] theorem State.raise_world (s : State) (e : ErrorCode) (opc : Byte) : (State.raise e opc s).world = s.world := rfl

/-! ### State.completeOk -/

@[simp] theorem State.completeOk_cfg (s : State) (opc : Byte) : (State.completeOk opc s).cfg = s.cfg := rfl
@[simp] theorem State.completeOk_status (s : State) (opc : Byte) : (State.completeOk opc s).status = Status.setBusy (Status.setRv (Status.setErr s.status errNone) true) false := rfl
@[simp] theorem State.completeOk_att (s : State) (opc : Byte) : (State.completeOk opc s).att = s.att := rfl
@[simp] theorem State.completeOk_lop (s : State) (opc : Byte) : (State.completeOk opc s).lop = opc := rfl
@[simp] theorem State.completeOk_txbuf (s : State) (opc : Byte) : (State.completeOk opc s).txbuf = s.txbuf := rfl
@[simp] theorem State.completeOk_txlen (s : State) (opc : Byte) : (State.completeOk opc s).txlen = s.txlen := rfl
@[simp] theorem State.completeOk_rxbuf (s : State) (opc : Byte) : (State.completeOk opc s).rxbuf = s.rxbuf := rfl
@[simp] theorem State.completeOk_rxlen (s : State) (opc : Byte) : (State.completeOk opc s).rxlen = s.rxlen := rfl
@[simp] theorem State.completeOk_plen (s : State) (opc : Byte) : (State.completeOk opc s).plen = s.plen := rfl
@[simp] theorem State.completeOk_crcout (s : State) (opc : Byte) : (State.completeOk opc s).crcout = s.crcout := rfl
@[simp] theorem State.completeOk_val0 (s : State) (opc : Byte) : (State.completeOk opc s).val0 = s.val0 := rfl
@[simp] theorem State.completeOk_val1 (s : State) (opc : Byte) : (State.completeOk opc s).val1 = s.val1 := rfl
@[simp] theorem State.completeOk_val2 (s : State) (opc : Byte) : (State.completeOk opc s).val2 = s.val2 := rfl
@[simp] theorem State.completeOk_val3 (s : State) (opc : Byte) : (State.completeOk opc s).val3 = s.val3 := rfl
@[simp] theorem State.completeOk_dd (s : State) (opc : Byte) : (State.completeOk opc s).dd = s.dd := rfl
@[simp] theorem State.completeOk_divr (s : State) (opc : Byte) : (State.completeOk opc s).divr = s.divr := rfl
@[simp] theorem State.completeOk_seq (s : State) (opc : Byte) : (State.completeOk opc s).seq = .idle := rfl
@[simp] theorem State.completeOk_cont (s : State) (opc : Byte) : (State.completeOk opc s).cont = s.cont := rfl
@[simp] theorem State.completeOk_draws (s : State) (opc : Byte) : (State.completeOk opc s).draws = s.draws := rfl
@[simp] theorem State.completeOk_world (s : State) (opc : Byte) : (State.completeOk opc s).world = s.world := rfl

/-! ### State.clearTransaction -/

@[simp] theorem State.clearTransaction_cfg (s : State) : (State.clearTransaction s).cfg = s.cfg := rfl
@[simp] theorem State.clearTransaction_status (s : State) : (State.clearTransaction s).status = Status.setLerr s.status lerrNone := rfl
@[simp] theorem State.clearTransaction_att (s : State) : (State.clearTransaction s).att = 0 := rfl
@[simp] theorem State.clearTransaction_lop (s : State) : (State.clearTransaction s).lop = s.lop := rfl
@[simp] theorem State.clearTransaction_txbuf (s : State) : (State.clearTransaction s).txbuf = s.txbuf := rfl
@[simp] theorem State.clearTransaction_txlen (s : State) : (State.clearTransaction s).txlen = s.txlen := rfl
@[simp] theorem State.clearTransaction_rxbuf (s : State) : (State.clearTransaction s).rxbuf = s.rxbuf := rfl
@[simp] theorem State.clearTransaction_rxlen (s : State) : (State.clearTransaction s).rxlen = 0 := rfl
@[simp] theorem State.clearTransaction_plen (s : State) : (State.clearTransaction s).plen = s.plen := rfl
@[simp] theorem State.clearTransaction_crcout (s : State) : (State.clearTransaction s).crcout = s.crcout := rfl
@[simp] theorem State.clearTransaction_val0 (s : State) : (State.clearTransaction s).val0 = s.val0 := rfl
@[simp] theorem State.clearTransaction_val1 (s : State) : (State.clearTransaction s).val1 = s.val1 := rfl
@[simp] theorem State.clearTransaction_val2 (s : State) : (State.clearTransaction s).val2 = s.val2 := rfl
@[simp] theorem State.clearTransaction_val3 (s : State) : (State.clearTransaction s).val3 = s.val3 := rfl
@[simp] theorem State.clearTransaction_dd (s : State) : (State.clearTransaction s).dd = s.dd := rfl
@[simp] theorem State.clearTransaction_divr (s : State) : (State.clearTransaction s).divr = s.divr := rfl
@[simp] theorem State.clearTransaction_seq (s : State) : (State.clearTransaction s).seq = s.seq := rfl
@[simp] theorem State.clearTransaction_cont (s : State) : (State.clearTransaction s).cont = s.cont := rfl
@[simp] theorem State.clearTransaction_draws (s : State) : (State.clearTransaction s).draws = s.draws := rfl
@[simp] theorem State.clearTransaction_world (s : State) : (State.clearTransaction s).world = s.world := rfl

/-! ### State.enterSend -/

@[simp] theorem State.enterSend_cfg (s : State) (k : Cont) : (State.enterSend k s).cfg = s.cfg := rfl
@[simp] theorem State.enterSend_status (s : State) (k : Cont) : (State.enterSend k s).status = Status.setBusy s.status true := rfl
@[simp] theorem State.enterSend_att (s : State) (k : Cont) : (State.enterSend k s).att = s.att := rfl
@[simp] theorem State.enterSend_lop (s : State) (k : Cont) : (State.enterSend k s).lop = s.lop := rfl
@[simp] theorem State.enterSend_txbuf (s : State) (k : Cont) : (State.enterSend k s).txbuf = s.txbuf := rfl
@[simp] theorem State.enterSend_txlen (s : State) (k : Cont) : (State.enterSend k s).txlen = s.txlen := rfl
@[simp] theorem State.enterSend_rxbuf (s : State) (k : Cont) : (State.enterSend k s).rxbuf = s.rxbuf := rfl
@[simp] theorem State.enterSend_rxlen (s : State) (k : Cont) : (State.enterSend k s).rxlen = s.rxlen := rfl
@[simp] theorem State.enterSend_plen (s : State) (k : Cont) : (State.enterSend k s).plen = s.plen := rfl
@[simp] theorem State.enterSend_crcout (s : State) (k : Cont) : (State.enterSend k s).crcout = s.crcout := rfl
@[simp] theorem State.enterSend_val0 (s : State) (k : Cont) : (State.enterSend k s).val0 = s.val0 := rfl
@[simp] theorem State.enterSend_val1 (s : State) (k : Cont) : (State.enterSend k s).val1 = s.val1 := rfl
@[simp] theorem State.enterSend_val2 (s : State) (k : Cont) : (State.enterSend k s).val2 = s.val2 := rfl
@[simp] theorem State.enterSend_val3 (s : State) (k : Cont) : (State.enterSend k s).val3 = s.val3 := rfl
@[simp] theorem State.enterSend_dd (s : State) (k : Cont) : (State.enterSend k s).dd = s.dd := rfl
@[simp] theorem State.enterSend_divr (s : State) (k : Cont) : (State.enterSend k s).divr = s.divr := rfl
@[simp] theorem State.enterSend_seq (s : State) (k : Cont) : (State.enterSend k s).seq = .send := rfl
@[simp] theorem State.enterSend_cont (s : State) (k : Cont) : (State.enterSend k s).cont = k := rfl
@[simp] theorem State.enterSend_draws (s : State) (k : Cont) : (State.enterSend k s).draws = s.draws := rfl
@[simp] theorem State.enterSend_world (s : State) (k : Cont) : (State.enterSend k s).world = s.world := rfl

/-! ### sendFrame -/

@[simp] theorem sendFrame_cfg (s : State) (f : List Byte) : (sendFrame f s).cfg = s.cfg := rfl
@[simp] theorem sendFrame_status (s : State) (f : List Byte) : (sendFrame f s).status = s.status := rfl
@[simp] theorem sendFrame_att (s : State) (f : List Byte) : (sendFrame f s).att = s.att + 1 := rfl
@[simp] theorem sendFrame_lop (s : State) (f : List Byte) : (sendFrame f s).lop = s.lop := rfl
@[simp] theorem sendFrame_txbuf (s : State) (f : List Byte) : (sendFrame f s).txbuf = s.txbuf := rfl
@[simp] theorem sendFrame_txlen (s : State) (f : List Byte) : (sendFrame f s).txlen = s.txlen := rfl
@[simp] theorem sendFrame_rxbuf (s : State) (f : List Byte) : (sendFrame f s).rxbuf = s.rxbuf := rfl
@[simp] theorem sendFrame_rxlen (s : State) (f : List Byte) : (sendFrame f s).rxlen = s.rxlen := rfl
@[simp] theorem sendFrame_plen (s : State) (f : List Byte) : (sendFrame f s).plen = s.plen := rfl
@[simp] theorem sendFrame_crcout (s : State) (f : List Byte) : (sendFrame f s).crcout = s.crcout := rfl
@[simp] theorem sendFrame_val0 (s : State) (f : List Byte) : (sendFrame f s).val0 = s.val0 := rfl
@[simp] theorem sendFrame_val1 (s : State) (f : List Byte) : (sendFrame f s).val1 = s.val1 := rfl
@[simp] theorem sendFrame_val2 (s : State) (f : List Byte) : (sendFrame f s).val2 = s.val2 := rfl
@[simp] theorem sendFrame_val3 (s : State) (f : List Byte) : (sendFrame f s).val3 = s.val3 := rfl
@[simp] theorem sendFrame_dd (s : State) (f : List Byte) : (sendFrame f s).dd = s.dd := rfl
@[simp] theorem sendFrame_divr (s : State) (f : List Byte) : (sendFrame f s).divr = s.divr := rfl
@[simp] theorem sendFrame_seq (s : State) (f : List Byte) : (sendFrame f s).seq = .recv := rfl
@[simp] theorem sendFrame_cont (s : State) (f : List Byte) : (sendFrame f s).cont = s.cont := rfl
@[simp] theorem sendFrame_draws (s : State) (f : List Byte) : (sendFrame f s).draws = s.draws := rfl
@[simp] theorem sendFrame_host (s : State) (f : List Byte) : (sendFrame f s).world.host = s.world.host := rfl
@[simp] theorem sendFrame_answers (s : State) (f : List Byte) : (sendFrame f s).world.answers = s.world.answers := rfl
@[simp] theorem sendFrame_timer (s : State) (f : List Byte) : (sendFrame f s).world.timer = s.world.timer := rfl
@[simp] theorem sendFrame_events (s : State) (f : List Byte) : (sendFrame f s).world.events = .chWrite f :: s.world.events := rfl
@[simp] theorem sendFrame_reads (s : State) (f : List Byte) : (sendFrame f s).world.reads = s.world.reads := rfl

end Sys2Proof.Machine
end

