-- ==== Sys2Proof/Laws/Completion.lean ====
section
/-! SUPPORT. What the two completions can do, in the terms of Safety.lean. -/

namespace Sys2Proof.Machine

/-- An error completion as the host reads it (R276). -/
theorem raise_completed (e : ErrorCode) (o : Byte) (s : State) : Completed (State.raise e o s) o e.code := by
  refine ⟨by simp [State.raise], ?_, rfl, by simp [State.raise], rfl⟩
  simp only [State.raise, Status.rv_setBusy, Status.rv_setRv]
  cases e <;> decide

/-- An error completion keeps the session bits. -/
theorem raise_keeps (e : ErrorCode) (o : Byte) (s : State) : KeepsSession s (State.raise e o s) := by
  simp [KeepsSession, State.raise]

/-- A successful completion as the host reads it (R281). -/
theorem completeOk_completed (o : Byte) (s : State) : Completed (State.completeOk o s) o 0 := by
  refine ⟨by simp [State.completeOk, errNone], ?_, rfl, by simp [State.completeOk], rfl⟩
  simp [State.completeOk]

/-- A successful completion keeps the session bits. -/
theorem completeOk_keeps (o : Byte) (s : State) : KeepsSession s (State.completeOk o s) := by
  simp [KeepsSession, State.completeOk]

end Sys2Proof.Machine
end

