-- ==== Sys2Proof/Laws/Crc.lean ====
section
/-! SUPPORT. What the checksum's step can do: the bytes of a halfword, and the table step as eight rounds of the generator. -/

namespace Sys2Proof.Machine

/-- The bits of a halfword put together from two bytes. -/
theorem append_getLsbD (h l : Byte) (i : Nat) :
    (h ++ l : Half).getLsbD i = if i < 8 then l.getLsbD i else h.getLsbD (i - 8) :=
  (BitVec.getLsbD_append ..).trans (by simp)

/-- A halfword is its high byte before its low byte. -/
theorem eq_append_iff (c : Half) (h l : Byte) : c = (h ++ l : Half) ↔ h = c.extractLsb' 8 8 ∧ l = c.extractLsb' 0 8 := by
  constructor
  · rintro rfl
    constructor <;> (apply BitVec.eq_of_getLsbD_eq; intro i hi; simp [append_getLsbD, hi])
  · rintro ⟨rfl, rfl⟩
    apply BitVec.eq_of_getLsbD_eq
    intro i hi
    rw [append_getLsbD]
    by_cases h : i < 8
    · simp [h]
    · simp only [h, if_false, BitVec.getLsbD_extractLsb', show 8 + (i - 8) = i by omega,
        decide_eq_true (show i - 8 < 8 by omega), Bool.true_and]

/-- A round of the table generator is linear. -/
theorem crcRound_xor (c x : Half) : crcRound (c ^^^ x) = crcRound c ^^^ crcRound x := by
  unfold crcRound
  rw [show (c ^^^ x).getLsbD 0 = (c.getLsbD 0 ^^ x.getLsbD 0) by simp]
  cases c.getLsbD 0 <;> cases x.getLsbD 0 <;> simp [BitVec.ushiftRight_xor_distrib]
  all_goals ac_nf
  simp [← BitVec.xor_assoc]

/-- Any number of rounds is linear. -/
theorem crcRounds_xor (n : Nat) (c x : Half) :
    Nat.repeat crcRound n (c ^^^ x) = Nat.repeat crcRound n c ^^^ Nat.repeat crcRound n x := by
  induction n with
  | zero => rfl
  | succ n ih => simp [Nat.repeat, ih, crcRound_xor]

/-- Rounds on a high byte alone shift it down. -/
theorem crcRounds_high (n : Nat) (hn : n ≤ 8) (h : Byte) : Nat.repeat crcRound n (h ++ 0#8 : Half) = (h ++ 0#8 : Half) >>> n := by
  induction n with
  | zero => rfl
  | succ n ih =>
    have h8 : n < 8 := by omega
    simp only [Nat.repeat, ih (by omega)]
    unfold crcRound
    rw [if_neg (by simp [append_getLsbD, h8]), ← BitVec.shiftRight_add]

/-- The table step on a byte is eight rounds on the register with the byte in its low half (R130, R131). -/
theorem crcUpdate_rounds (r : Half) (b : Byte) : crcUpdate r b = Nat.repeat crcRound 8 (r ^^^ b.setWidth 16) := by
  have split (c : Half) : c = (c.extractLsb' 8 8 ++ 0#8 : Half) ^^^ (c.extractLsb' 0 8).setWidth 16 := by
    apply BitVec.eq_of_getLsbD_eq
    intro i hi
    rw [BitVec.getLsbD_xor, append_getLsbD]
    by_cases h : i < 8
    · simp [h, hi]
    · simp only [h, if_false, BitVec.getLsbD_extractLsb', show 8 + (i - 8) = i by omega,
        decide_eq_true (show i - 8 < 8 by omega), BitVec.getLsbD_setWidth]
      simp
  conv_rhs => rw [split (r ^^^ b.setWidth 16)]
  rw [crcRounds_xor, crcRounds_high 8 (by omega)]
  unfold crcUpdate crcTable
  congr 1
  apply BitVec.eq_of_getLsbD_eq
  intro i hi
  rw [BitVec.getLsbD_ushiftRight, BitVec.getLsbD_ushiftRight, append_getLsbD]
  simp
  intro h
  by_contra hc
  rw [BitVec.getLsbD_of_ge _ _ (by omega)] at h
  cases h

/-- The table step is linear. -/
theorem crcUpdate_xor (x y : Half) (b c : Byte) : crcUpdate (x ^^^ y) (b ^^^ c) = crcUpdate x b ^^^ crcUpdate y c := by
  simp only [crcUpdate_rounds]
  rw [← crcRounds_xor]
  congr 1
  rw [show (b ^^^ c).setWidth 16 = b.setWidth 16 ^^^ c.setWidth 16 by simp]
  ac_rfl

/-- There is no final XOR, so the register is the fold (R131). -/
theorem crc16Reg_fold (s : List Byte) : crc16Reg s = s.foldl crcUpdate Config.crcInit := by simp [crc16Reg, Config.crcXorOut]

end Sys2Proof.Machine
end

