-- ==== Sys2Proof/Laws/PerInstr.lean ====
section
/-! SUPPORT. Statements made per instruction, one lemma for each constructor: `EncodedLength`, the length of an instruction's bytes by its
format (R93 to R99, R106). -/

namespace Sys2Proof.Laws.EncodedLength

/-- The length of the bytes of an instruction, from its own row of the tables. -/
def expected : Instr → Nat
  | .crc16 d => 2 + d.length
  | .xact _ c => 3 + c.length
  | .dec3 _ _ _ p => 6 + p.length
  | .dec4 p => 2 + p.length
  | .wcfg _ _ => 3
  | .openSession => 1
  | .closeSession => 1
  | .getVolt => 1
  | .getCurr => 1
  | .getPreal => 1
  | .getPreact => 1
  | .getPapp => 1
  | .getPf => 1
  | .getEnergy => 1
  | .wireVolt => 3
  | .wireCurr => 3
  | .wirePreal => 3
  | .wirePreact => 3
  | .wirePapp => 3
  | .wirePf => 3
  | .wireEnergy => 3
  | .wireOpen => 8
  | .wireClose => 1

/-- An instruction that has an encoding has the length of its format, from 1 byte to 261; and a host word's length function finds it. -/
def Statement (i : Instr) : Prop :=
  i.encodable = true →
    (encode i).length = expected i ∧ 1 ≤ (encode i).length ∧ (encode i).length ≤ 261 ∧
    (i.level = .host → wordLength (encode i) = some (encode i).length)

/-- A length byte counts its list. -/
theorem lengthByte_toNat {l : List Byte} (h : countable l = true) : (lengthByte l).toNat = l.length ∧ l.length ≤ 255 := by
  have h' : l.length ≤ 255 := by simpa [countable] using h
  refine ⟨?_, h'⟩
  rw [lengthByte, BitVec.toNat_ofNat, Nat.mod_eq_of_lt (by omega)]

theorem crc16 (d : List Byte) : Statement (.crc16 d) := by
  intro h
  have hl := lengthByte_toNat h
  refine ⟨?_, ?_, ?_, fun _ => ?_⟩ <;>
    simp [encode, expected, wordLength, opcodeFormat, Opcode.crc16, hl] <;> omega

theorem xact (a : Byte) (c : List Byte) : Statement (.xact a c) := by
  intro h
  have hl := lengthByte_toNat h
  refine ⟨?_, ?_, ?_, fun _ => ?_⟩ <;>
    simp [encode, expected, wordLength, opcodeFormat, Opcode.crc16, Opcode.xact, hl] <;> omega

theorem dec3 (m : Byte) (div : Half) (e : Byte) (p : List Byte) : Statement (.dec3 m div e p) := by
  intro h
  have hl := lengthByte_toNat h
  refine ⟨?_, ?_, ?_, fun _ => ?_⟩ <;>
    simp [encode, expected, wordLength, opcodeFormat, Opcode.crc16, Opcode.xact, Opcode.dec3, hl] <;> omega

theorem dec4 (p : List Byte) : Statement (.dec4 p) := by
  intro h
  have hl := lengthByte_toNat h
  refine ⟨?_, ?_, ?_, fun _ => ?_⟩ <;>
    simp [encode, expected, wordLength, opcodeFormat, Opcode.crc16, Opcode.xact, Opcode.dec3, Opcode.dec4, hl] <;> omega

theorem wcfg (c0 c1 : Byte) : Statement (.wcfg c0 c1) := fun _ =>
  ⟨rfl, by simp [encode], by simp [encode],
    fun _ => by simp [encode, wordLength, opcodeFormat, Opcode.crc16, Opcode.xact, Opcode.dec3, Opcode.dec4, Opcode.wcfg]⟩

theorem openSession : Statement .openSession := by unfold Statement; decide
theorem closeSession : Statement .closeSession := by unfold Statement; decide
theorem getVolt : Statement .getVolt := by unfold Statement; decide
theorem getCurr : Statement .getCurr := by unfold Statement; decide
theorem getPreal : Statement .getPreal := by unfold Statement; decide
theorem getPreact : Statement .getPreact := by unfold Statement; decide
theorem getPapp : Statement .getPapp := by unfold Statement; decide
theorem getPf : Statement .getPf := by unfold Statement; decide
theorem getEnergy : Statement .getEnergy := by unfold Statement; decide
theorem wireVolt : Statement .wireVolt := by unfold Statement; decide
theorem wireCurr : Statement .wireCurr := by unfold Statement; decide
theorem wirePreal : Statement .wirePreal := by unfold Statement; decide
theorem wirePreact : Statement .wirePreact := by unfold Statement; decide
theorem wirePapp : Statement .wirePapp := by unfold Statement; decide
theorem wirePf : Statement .wirePf := by unfold Statement; decide
theorem wireEnergy : Statement .wireEnergy := by unfold Statement; decide
theorem wireOpen : Statement .wireOpen := by unfold Statement; decide
theorem wireClose : Statement .wireClose := by unfold Statement; decide

end Sys2Proof.Laws.EncodedLength
end

