-- ==== Sys2Proof/Laws/Decode.lean ====
section
/-! SUPPORT. What the decoder can do. -/

namespace Sys2Proof


/-- A length byte is the one of the list it counts. -/
theorem lengthByte_eq {n : Byte} {l : List Byte} (h : l.length = n.toNat) : n = lengthByte l ∧ countable l = true := by
  have hn := n.isLt
  exact ⟨by simp [lengthByte, h], by simp [countable]; omega⟩

/-- Everything that reading the operands of a word can give (R93 to R98). -/
theorem readOperands_ok {opc : Byte} {f : Format} {rest : List Byte} {i : Instr} (h : readOperands opc f rest = .ok i) :
    match f with
    | .h0 j => rest = [] ∧ i = j
    | .hc => ∃ d, rest = lengthByte d :: d ∧ countable d = true ∧ i = .crc16 d
    | .hx => ∃ a c, rest = a :: lengthByte c :: c ∧ countable c = true ∧ i = .xact a c
    | .hd3 => ∃ m dl dh e p, rest = m :: dl :: dh :: e :: lengthByte p :: p ∧ countable p = true ∧ i = .dec3 m (divisorOf dl dh) e p
    | .hd4 => ∃ p, rest = lengthByte p :: p ∧ countable p = true ∧ i = .dec4 p
    | .hw => ∃ c0 c1, rest = [c0, c1] ∧ i = .wcfg c0 c1 := by
  cases f with
  | h0 j =>
    rcases rest with _ | ⟨n, d⟩
    · cases h
      exact ⟨rfl, rfl⟩
    · simp [readOperands] at h
  | hc =>
    rcases rest with _ | ⟨n, d⟩ <;> simp [readOperands] at h
    split at h <;> cases h
    next hl => exact ⟨d, by rw [(lengthByte_eq hl).1], (lengthByte_eq hl).2, rfl⟩
  | hd4 =>
    rcases rest with _ | ⟨n, d⟩ <;> simp [readOperands] at h
    split at h <;> cases h
    next hl => exact ⟨d, by rw [(lengthByte_eq hl).1], (lengthByte_eq hl).2, rfl⟩
  | hx =>
    rcases rest with _ | ⟨a, _ | ⟨n, d⟩⟩ <;> simp [readOperands] at h
    split at h <;> cases h
    next hl => exact ⟨a, d, by rw [(lengthByte_eq hl).1], (lengthByte_eq hl).2, rfl⟩
  | hw =>
    rcases rest with _ | ⟨a, _ | ⟨b, _ | ⟨x, d⟩⟩⟩ <;> simp [readOperands] at h
    exact ⟨a, b, rfl, h.symm⟩
  | hd3 =>
    rcases rest with _ | ⟨m, _ | ⟨dl, _ | ⟨dh, _ | ⟨e, _ | ⟨n, d⟩⟩⟩⟩⟩ <;> simp [readOperands] at h
    split at h <;> cases h
    next hl => exact ⟨m, dl, dh, e, d, by rw [(lengthByte_eq hl).1], (lengthByte_eq hl).2, rfl⟩

/-- The divisor's two bytes (R96, R110). -/
theorem divisorOf_bytes (dl dh : Byte) : divisorLow (divisorOf dl dh) = dl ∧ divisorHigh (divisorOf dl dh) = dh := by
  have h := (Machine.eq_append_iff (divisorOf dl dh) dh dl).mp rfl
  exact ⟨h.2.symm, h.1.symm⟩

/-- A divisor is put together from its two bytes. -/
theorem divisorOf_split (div : Half) : divisorOf (divisorLow div) (divisorHigh div) = div :=
  ((Machine.eq_append_iff div (divisorHigh div) (divisorLow div)).mpr ⟨rfl, rfl⟩).symm

end Sys2Proof
end

