-- ==== Sys2Proof/Laws/Decoder.lean ====
section
/-! SUPPORT. What the decoder can do: the values of its assemblies, which slots lie in a payload, and the two results of each decode. -/

namespace Sys2Proof.Machine

/-- The 3-byte assembly as a number (R211). -/
theorem asm3_toNat (m d0 d1 d2 : Byte) : (asm3 m d0 d1 d2).toNat = (d0 &&& m).toNat * 65536 + d2.toNat * 256 + d1.toNat := by
  have h0 := (d0 &&& m).isLt
  have h1 := d1.isLt
  have h2 := d2.isLt
  have : (asm3 m d0 d1 d2).toNat = (((0#8).toNat <<< 8 ||| (d0 &&& m).toNat) <<< 8 ||| d2.toNat) <<< 8 ||| d1.toNat := by
    unfold asm3
    refine (BitVec.toNat_append ..).trans ?_
    congr 2
  rw [this, ← Nat.shiftLeft_add_eq_or_of_lt h1, ← Nat.shiftLeft_add_eq_or_of_lt h2, ← Nat.shiftLeft_add_eq_or_of_lt h0]
  simp only [Nat.shiftLeft_eq, BitVec.toNat_ofNat]
  omega

/-- The 4-byte assembly as a number (R214). -/
theorem asm4_toNat (d0 d1 d2 d3 : Byte) :
    (asm4 d0 d1 d2 d3).toNat = d1.toNat * 16777216 + d0.toNat * 65536 + d3.toNat * 256 + d2.toNat := by
  have h0 := d0.isLt
  have h2 := d2.isLt
  have h3 := d3.isLt
  have : (asm4 d0 d1 d2 d3).toNat = ((d1.toNat <<< 8 ||| d0.toNat) <<< 8 ||| d3.toNat) <<< 8 ||| d2.toNat := by
    unfold asm4
    refine (BitVec.toNat_append ..).trans ?_
    congr 2
  rw [this, ← Nat.shiftLeft_add_eq_or_of_lt h2, ← Nat.shiftLeft_add_eq_or_of_lt h3, ← Nat.shiftLeft_add_eq_or_of_lt h0]
  simp only [Nat.shiftLeft_eq]
  omega

/-- A 3-byte register inside the payload is assembled (R211). -/
theorem slot3_inside (p : List Byte) (m : Byte) (i : Nat) (h : 3 * i + 2 < p.length) :
    slot3 p m i = some (asm3 m (p.getD (3 * i) 0) (p.getD (3 * i + 1) 0) (p.getD (3 * i + 2) 0)) := by
  have h0 : 3 * i < p.length := by omega
  have h1 : 3 * i + 1 < p.length := by omega
  simp [slot3, h0, h1, h]

/-- A 3-byte register past the payload has no value (R213). -/
theorem slot3_outside (p : List Byte) (m : Byte) (i : Nat) (h : p.length ≤ 3 * i + 2) : slot3 p m i = none := by
  have h2 : p[3 * i + 2]? = none := List.getElem?_eq_none h
  unfold slot3
  rw [h2]
  split <;> simp_all

/-- A slot has no value exactly where its last byte lies past the payload (R213). -/
theorem slot3_isNone (p : List Byte) (m : Byte) (i : Nat) : (slot3 p m i).isNone = decide (p.length ≤ 3 * i + 2) := by
  rcases Nat.lt_or_ge (3 * i + 2) p.length with h | h
  · simp [slot3_inside p m i h, h]
  · simp [slot3_outside p m i h, h]

/-- Everything `Decode3` can do (R212, R220). -/
theorem decode3_cases (p : List Byte) (m : Byte) (div : Half) (e : Byte) (s : State) :
    (p.length = e.toNat ∧ decode3 p m div e s = some { s with
      val0 := value3 p m s.draws 0
      val1 := value3 p m s.draws 1
      val2 := value3 p m s.draws 2
      val3 := value3 p m s.draws 3
      dd := flags3 p m
      divr := div
      draws := s.draws + 4 }) ∨
    (p.length ≠ e.toNat ∧ decode3 p m div e s = none) := by
  by_cases h : p.length = e.toNat
  · exact .inl ⟨h, by simp [decode3, h]⟩
  · exact .inr ⟨h, by simp [decode3, h]⟩

/-- Everything `Decode4` can do (R215, R220). -/
theorem decode4_cases (p : List Byte) (s : State) :
    (p.length = 16 ∧ decode4 p s = some { s with
      val0 := slot4 p 0
      val1 := slot4 p 1
      val2 := slot4 p 2
      val3 := slot4 p 3
      dd := 0
      divr := Config.divE }) ∨
    (p.length ≠ 16 ∧ decode4 p s = none) := by
  have hl : Config.lenE.toNat = 16 := rfl
  by_cases h : p.length = 16
  · exact .inl ⟨h, by simp [decode4, h, hl]⟩
  · exact .inr ⟨h, by simp [decode4, h, hl]⟩

/-- A decode writes its result registers and takes draws, nothing else. -/
theorem decodeFamily_frame {f : Family} {p : List Byte} {s t : State} (h : decodeFamily f p s = some t) :
    t = { s with
      val0 := t.val0
      val1 := t.val1
      val2 := t.val2
      val3 := t.val3
      dd := t.dd
      divr := t.divr
      draws := t.draws } ∧ t.dd.toNat < 16 := by
  unfold decodeFamily at h
  split at h
  · next m _ =>
    rcases decode3_cases p m (Config.familyDivisor f) (Config.familyLength f) s with ⟨-, h'⟩ | ⟨-, h'⟩
    · rw [h'] at h
      have ht := Option.some.inj h
      subst ht
      refine ⟨rfl, ?_⟩
      unfold flags3
      simp only [slot3_isNone]
      generalize decide (p.length ≤ 3 * 0 + 2) = b0
      generalize decide (p.length ≤ 3 * 1 + 2) = b1
      generalize decide (p.length ≤ 3 * 2 + 2) = b2
      generalize decide (p.length ≤ 3 * 3 + 2) = b3
      revert b0 b1 b2 b3
      decide
    · rw [h'] at h
      cases h
  · rcases decode4_cases p s with ⟨-, h'⟩ | ⟨-, h'⟩
    · rw [h'] at h
      have ht := Option.some.inj h
      subst ht
      exact ⟨rfl, by simp⟩
    · rw [h'] at h
      cases h

end Sys2Proof.Machine
end

