-- ==== Sys2Proof/Laws/Memory.lean ====
section
/-! SUPPORT. The laws of the buffers: a read after a write, and that every write keeps the canonical form. -/

namespace Sys2Proof.Machine

/-- Putting a byte changes the read of that index and of no other. -/
theorem Memory.read_put (m : Memory) (i j : Nat) (v : Byte) :
    Memory.read (Memory.put m i v) j = if j = i then some v else Memory.read m j := by
  induction m with
  | nil =>
    by_cases h : j = i
    · simp [Memory.put, Memory.read, h]
    · simp [Memory.put, Memory.read, h]
  | cons c rest ih =>
    obtain ⟨a, b⟩ := c
    by_cases h1 : i < a
    · simp [Memory.put, Memory.read, h1]
    · by_cases h2 : i = a
      · subst h2
        by_cases h : j = i
        · simp [Memory.put, Memory.read, h]
        · simp [Memory.put, Memory.read, h]
      · have h3 : a ≠ i := fun h => h2 h.symm
        by_cases h : j = a
        · subst h
          simp [Memory.put, Memory.read, h1, h2, h3]
        · simp [Memory.put, Memory.read, h1, h2, h, ih]

/-- Putting a byte below `BUF_MAX` keeps the canonical form. -/
theorem Memory.wfFrom_put (m : Memory) (lo i : Nat) (v : Byte) (hlo : lo ≤ i) (hi : i < Config.bufMax)
    (h : Memory.wfFrom lo m = true) : Memory.wfFrom lo (Memory.put m i v) = true := by
  induction m generalizing lo with
  | nil => simp [Memory.put, Memory.wfFrom, hlo, hi]
  | cons c rest ih =>
    obtain ⟨a, b⟩ := c
    simp only [Memory.wfFrom, Bool.and_eq_true, decide_eq_true_eq] at h
    obtain ⟨⟨ha, hb⟩, hr⟩ := h
    by_cases h1 : i < a
    · have : i + 1 ≤ a := h1
      simp [Memory.put, Memory.wfFrom, h1, hlo, hi, hb, hr, this]
    · by_cases h2 : i = a
      · subst h2
        simp [Memory.put, Memory.wfFrom, ha, hb, hr]
      · have : a + 1 ≤ i := by omega
        simp [Memory.put, Memory.wfFrom, h1, h2, ha, hb, ih (a + 1) this hr]

/-- Putting a byte sequence changes the reads of its own indices only. -/
theorem Memory.read_putAll (m : Memory) (a j : Nat) (s : List Byte) :
    Memory.read (Memory.putAll m a s) j = if a ≤ j ∧ j < a + s.length then s[j - a]? else Memory.read m j := by
  induction s generalizing m a with
  | nil =>
    have : ¬ (a ≤ j ∧ j < a) := by omega
    simp [Memory.putAll, this]
  | cons b bs ih =>
    rw [Memory.putAll, ih, Memory.read_put]
    rcases Nat.lt_trichotomy j a with h | h | h
    · have h1 : ¬ (a + 1 ≤ j ∧ j < a + 1 + bs.length) := by omega
      have h2 : ¬ (a ≤ j ∧ j < a + (b :: bs).length) := by omega
      have h3 : j ≠ a := by omega
      simp only [h1, h2, h3, if_false]
    · subst h
      have h1 : ¬ (j + 1 ≤ j ∧ j < j + 1 + bs.length) := by omega
      have h2 : j ≤ j ∧ j < j + (b :: bs).length := by simp
      simp only [h1, h2, if_false, if_true, Nat.sub_self, List.getElem?_cons_zero, and_self]
    · obtain ⟨k, rfl⟩ : ∃ k, j = a + 1 + k := ⟨j - (a + 1), by omega⟩
      have h3 : a + 1 + k ≠ a := by omega
      have h4 : a + 1 + k - a = k + 1 := by omega
      have h5 : a + 1 + k - (a + 1) = k := by omega
      have h6 : (a + 1 ≤ a + 1 + k ∧ a + 1 + k < a + 1 + bs.length) ↔ k < bs.length := by omega
      have h7 : (a ≤ a + 1 + k ∧ a + 1 + k < a + (b :: bs).length) ↔ k < bs.length := by
        simp only [List.length_cons]; omega
      simp only [h3, h4, h5, h6, h7, if_false, List.getElem?_cons_succ]

/-- Putting a byte sequence that stays below `BUF_MAX` keeps the canonical form. -/
theorem Memory.wf_putAll (m : Memory) (a : Nat) (s : List Byte) (hs : a + s.length ≤ Config.bufMax)
    (h : Memory.wf m = true) : Memory.wf (Memory.putAll m a s) = true := by
  induction s generalizing m a with
  | nil => exact h
  | cons b bs ih =>
    simp only [List.length_cons] at hs
    exact ih (Memory.put m a b) (a + 1) (by omega) (Memory.wfFrom_put m 0 a b (by omega) (by omega) h)

/-- `MemWrite` answers exactly where the sequence fits. -/
theorem Memory.write_eq_some {m t : Memory} {a : Nat} {s : List Byte} (h : Memory.write m a s = some t) :
    a + s.length ≤ Config.bufMax ∧ t = Memory.putAll m a s := by
  unfold Memory.write at h
  split at h
  · exact ⟨‹_›, by simpa using h.symm⟩
  · cases h

/-- A sequence that fits is written. -/
theorem Memory.write_fits {m : Memory} {a : Nat} {s : List Byte} (h : a + s.length ≤ Config.bufMax) :
    Memory.write m a s = some (Memory.putAll m a s) := by
  simp [Memory.write, h]

/-- `MemWrite` keeps the canonical form. -/
theorem Memory.wf_write {m t : Memory} {a : Nat} {s : List Byte} (h : Memory.write m a s = some t) (hm : Memory.wf m = true) :
    Memory.wf t = true := by
  obtain ⟨hs, rfl⟩ := Memory.write_eq_some h
  exact Memory.wf_putAll m a s hs hm

/-- `MemRead` gives a sequence exactly where every byte of it has its value. -/
theorem Memory.readAll_eq_some {m : Memory} {a n : Nat} {s : List Byte} :
    Memory.readAll m a n = some s ↔ s.length = n ∧ ∀ k, k < n → Memory.read m (a + k) = s[k]? := by
  induction n generalizing a s with
  | zero =>
    constructor
    · intro h
      have : s = [] := by simpa [Memory.readAll] using h.symm
      simp [this]
    · rintro ⟨h, -⟩
      have : s = [] := List.length_eq_zero_iff.mp h
      simp [Memory.readAll, this]
  | succ n ih =>
    constructor
    · intro h
      unfold Memory.readAll at h
      split at h
      · next b bs hb hbs =>
        have hs : s = b :: bs := by simpa using h.symm
        subst hs
        obtain ⟨hl, hr⟩ := ih.mp hbs
        refine ⟨by simp [hl], ?_⟩
        intro k hk
        cases k with
        | zero => simpa using hb
        | succ k =>
          have := hr k (by omega)
          rw [show a + 1 + k = a + (k + 1) by omega] at this
          simpa using this
      · cases h
    · rintro ⟨hl, hr⟩
      cases s with
      | nil => simp at hl
      | cons b bs =>
        have hb : Memory.read m a = some b := by simpa using hr 0 (by omega)
        have hbs : Memory.readAll m (a + 1) n = some bs := by
          refine ih.mpr ⟨by simpa using hl, ?_⟩
          intro k hk
          have := hr (k + 1) (by omega)
          rw [show a + (k + 1) = a + 1 + k by omega] at this
          simpa using this
        simp [Memory.readAll, hb, hbs]

/-- What was put reads back. -/
theorem Memory.readAll_putAll (m : Memory) (a : Nat) (s : List Byte) :
    Memory.readAll (Memory.putAll m a s) a s.length = some s := by
  rw [Memory.readAll_eq_some]
  refine ⟨rfl, ?_⟩
  intro k hk
  have h1 : a ≤ a + k ∧ a + k < a + s.length := by omega
  rw [Memory.read_putAll, if_pos h1, show a + k - a = k by omega]

/-- A part of what was put at index 0 reads back as that part. -/
theorem Memory.readAll_putAll_part (m : Memory) (s : List Byte) (a n : Nat) (h : a + n ≤ s.length) :
    Memory.readAll (Memory.putAll m 0 s) a n = some ((s.drop a).take n) := by
  rw [Memory.readAll_eq_some]
  refine ⟨by simp; omega, ?_⟩
  intro k hk
  have h1 : 0 ≤ a + k ∧ a + k < 0 + s.length := by omega
  rw [Memory.read_putAll, if_pos h1]
  simp [hk]

/-- The buffers are in canonical form right after reset. -/
theorem reset_buffers_wf : Memory.wf State.reset.txbuf = true ∧ Memory.wf State.reset.rxbuf = true := ⟨rfl, rfl⟩

end Sys2Proof.Machine
end

