-- ==== Sys2Proof/Laws/Port.lean ====
section
/-! SUPPORT. What the read port can do. -/

namespace Sys2Proof.Machine

/-- Everything a read of a result register can do (R44, R306). -/
theorem readResult_cases (s : State) (r : ResultReg) (v : Word) :
    (s.busy = true ∧ readResult s r v = .error .readWhileBusy) ∨
    (s.busy = false ∧ Status.rv s.status = true ∧ inResultSet s.lop r = true ∧ readResult s r v = .ok v) ∨
    (s.busy = false ∧ (Status.rv s.status = false ∨ inResultSet s.lop r = false) ∧ readResult s r v = .error .unspecifiedResult) := by
  unfold readResult
  cases s.busy <;> cases Status.rv s.status <;> cases inResultSet s.lop r <;> simp

/-- Everything a read of a buffer byte can do (R34, R35). -/
theorem readBuffer_cases (m : Memory) (len : Byte) (i : Nat) :
    (∃ b, i < len.toNat ∧ Memory.read m i = some b ∧ readBuffer m len i = .ok (b.setWidth 32)) ∨
    (i < len.toNat ∧ Memory.read m i = none ∧ readBuffer m len i = .error .unwrittenByte) ∨
    (len.toNat ≤ i ∧ readBuffer m len i = .error .unspecifiedBufferByte) := by
  unfold readBuffer
  by_cases h : i < len.toNat
  · cases hr : Memory.read m i with
    | some b => exact .inl ⟨b, h, rfl, by simp [h]⟩
    | none => exact .inr (.inl ⟨h, rfl, by simp [h]⟩)
  · exact .inr (.inr ⟨by omega, by simp [h]⟩)

/-- Indices 0x20..0x3F read `TXBUF` (R22). -/
theorem readReg_txbuf (i : Nat) (hi : i < 32) (s : State) : readReg (BitVec.ofNat 8 (0x20 + i)) s = readBuffer s.txbuf s.txlen i := by
  interval_cases i <;> rfl

/-- Indices 0x40..0x5F read `RXBUF` (R22). -/
theorem readReg_rxbuf (i : Nat) (hi : i < 32) (s : State) : readReg (BitVec.ofNat 8 (0x40 + i)) s = readBuffer s.rxbuf s.rxlen i := by
  interval_cases i <;> rfl

end Sys2Proof.Machine
end

