-- ==== Sys2Proof/Laws/Transaction.lean ====
section
/-! SUPPORT. What the shared operations of a transaction can do, said once each: framing, starting, sending, receiving, decoding. -/

namespace Sys2Proof.Machine

/-! ### Framing -/

@[simp] theorem requestFrame_length (a : Byte) (c : List Byte) : (requestFrame a c).length = c.length + 3 := by
  simp [requestFrame, crcBytes]

/-- The first byte of a frame is the address (R102). -/
theorem requestFrame_head (a : Byte) (c : List Byte) : (requestFrame a c)[0]? = some a := by
  simp [requestFrame]

/-- The bytes between the address and the CRC are the command (R102). -/
theorem requestFrame_command (a : Byte) (c : List Byte) : (requestFrame a c).tail.take ((requestFrame a c).tail.length - 2) = c := by
  simp [requestFrame, crcBytes]

/-- A length of at most `BUF_MAX` fits an 8-bit length register. -/
theorem toNat_length (n : Nat) (h : n ≤ Config.bufMax) : (BitVec.ofNat 8 n).toNat = n := by
  have h32 : Config.bufMax = 32 := rfl
  rw [BitVec.toNat_ofNat, Nat.mod_eq_of_lt (by omega)]

/-- A command within `CMD_MAX` is framed. -/
theorem buildFrame_fits (a : Byte) (c : List Byte) (s : State) (h : c.length ≤ Config.cmdMax) :
    buildFrame a c s = .next { s with
      txbuf := Memory.putAll s.txbuf 0 (requestFrame a c)
      txlen := BitVec.ofNat 8 (c.length + 3) } := by
  have h29 : Config.cmdMax = 29 := rfl
  have h32 : Config.bufMax = 32 := rfl
  have hw : 0 + (requestFrame a c).length ≤ Config.bufMax := by rw [requestFrame_length]; omega
  simp only [buildFrame, Memory.write_fits hw, requestFrame_length]

/-- The state after the accept step of a transaction with a legal command (R181). -/
def started (a : Byte) (c : List Byte) (k : Cont) (s : State) : State :=
  State.enterSend k { s.clearTransaction with
    txbuf := Memory.putAll s.txbuf 0 (requestFrame a c)
    txlen := BitVec.ofNat 8 (c.length + 3) }

/-- `StartXact` with a legal command (R181). -/
theorem startXact_fits (a : Byte) (c : List Byte) (k : Cont) (s : State) (h : c.length ≤ Config.cmdMax) :
    startXact a c k s = .next (started a c k s) := by
  have hn : ¬ Config.cmdMax < c.length := by omega
  simp only [startXact, hn, if_false, buildFrame_fits a c _ h]
  rfl

/-- `StartXact` with a command that is too long (R151, R181). -/
theorem startXact_tooLong (a : Byte) (c : List Byte) (k : Cont) (s : State) (h : Config.cmdMax < c.length) :
    startXact a c k s = .next (State.raise .invalidCommand k.opcode { s.clearTransaction with txlen := 0 }) := by
  simp only [startXact, h, if_true]

/-- Everything `StartXact` can do: it always answers a next state. -/
theorem startXact_cases (a : Byte) (c : List Byte) (k : Cont) (s : State) :
    (c.length ≤ Config.cmdMax ∧ startXact a c k s = .next (started a c k s)) ∨
    (Config.cmdMax < c.length ∧
      startXact a c k s = .next (State.raise .invalidCommand k.opcode { s.clearTransaction with txlen := 0 })) := by
  rcases Nat.lt_or_ge Config.cmdMax c.length with h | h
  · exact .inr ⟨h, startXact_tooLong a c k s h⟩
  · exact .inl ⟨h, startXact_fits a c k s h⟩

/-- After the accept step the buffer holds the frame. -/
theorem started_frame (a : Byte) (c : List Byte) (k : Cont) (s : State) (h : c.length ≤ Config.cmdMax) :
    (started a c k s).frame = some (requestFrame a c) := by
  have h29 : Config.cmdMax = 29 := rfl
  have h32 : Config.bufMax = 32 := rfl
  have hl : (BitVec.ofNat 8 (c.length + 3)).toNat = (requestFrame a c).length := by
    rw [toNat_length _ (by omega), requestFrame_length]
  simp only [State.frame, started, State.enterSend_txbuf, State.enterSend_txlen, hl, Memory.readAll_putAll]

/-- A frame that reads back names its address in `TXBUF[0]`. -/
theorem frame_address {s : State} {f : List Byte} {b : Byte} (h : s.frame = some f) (hb : f[0]? = some b) :
    Memory.read s.txbuf 0 = some b := by
  obtain ⟨hl, hr⟩ := Memory.readAll_eq_some.mp h
  have hpos : 0 < s.txlen.toNat := by
    rw [← hl]
    exact (List.getElem?_eq_some_iff.mp hb).1
  simpa [hb] using hr 0 hpos

/-! ### The wire commands -/

/-- The meaning of a wire command is to send its frame. -/
theorem exec_wire (i : Instr) (s : State) (h : i.level = .wire) : exec i s = transmit (encode i) s := by
  cases i <;> first | rfl | simp [Instr.level] at h

/-- A frame that decodes is the frame of a wire command for its own address. -/
theorem decodeFrame_eq_some {f : List Byte} {i : Instr} (h : decodeFrame f = some i) :
    i.level = .wire ∧ ∃ a, f = requestFrame a (encode i) := by
  unfold decodeFrame at h
  split at h
  · cases h
  · next a rest =>
    split at h
    · next j hj =>
      split at h
      · next hf =>
        have hij : j = i := by simpa using h
        subst hij
        refine ⟨?_, a, hf⟩
        unfold decodeWire at hj
        repeat' split at hj
        all_goals (cases hj; try rfl)
      · cases h
    · cases h

/-- The command bytes of a wire command decode to it. -/
theorem decodeWire_encode (i : Instr) (h : i.level = .wire) : decodeWire (encode i) = some i := by
  cases i <;> first | rfl | simp [Instr.level] at h

/-- The frame of a wire command decodes to it. -/
theorem decodeFrame_requestFrame (a : Byte) (i : Instr) (h : i.level = .wire) :
    decodeFrame (requestFrame a (encode i)) = some i := by
  have ht : (requestFrame a (encode i)) = a :: (requestFrame a (encode i)).tail := by simp [requestFrame]
  have hc := requestFrame_command a (encode i)
  rw [ht] at hc ⊢
  simp only [List.tail_cons] at hc
  simp only [decodeFrame, hc, decodeWire_encode i h]
  rw [← ht]
  simp

/-- The `SEND` step sends the frame, whatever command it carries (R182). -/
theorem sendStep_frame {s : State} {f : List Byte} (h : s.frame = some f) : sendStep s = .next (sendFrame f s) := by
  simp only [sendStep, h]
  split
  · next i hi =>
    obtain ⟨hw, a, rfl⟩ := decodeFrame_eq_some hi
    rw [exec_wire i s hw, transmit, frame_address h (requestFrame_head a (encode i))]
  · rfl

/-! ### Receiving -/

/-- The state after a response is stored (R183). -/
def stored (r : List Byte) (s : State) : State :=
  { s with rxbuf := Memory.putAll s.rxbuf 0 r, rxlen := BitVec.ofNat 8 r.length }

/-- Everything `receive` can do with a response that `ChRead` may return. -/
theorem receive_fits {r : List Byte} {s : State} {a : Byte} (hr : r.length ≤ Config.bufMax)
    (ha : Memory.read s.txbuf 0 = some a) :
    receive r s = match validate r a s.ics with
      | none => finishOk (stored r s)
      | some v => .next (retryOrFail v (stored r s)) := by
  have hw : 0 + r.length ≤ Config.bufMax := by omega
  simp only [receive, Memory.write_fits hw, ha]
  rfl

/-- A response that was stored reads back. -/
theorem stored_response (r : List Byte) (s : State) (hr : r.length ≤ Config.bufMax) : (stored r s).response = some r := by
  simp only [State.response, stored, toNat_length r.length hr, Memory.readAll_putAll]

/-- The length of a response that validates (R153). -/
theorem validate_length {r : List Byte} {a : Byte} {ics : Bool} (h : validate r a ics = none) : Config.rspMin ≤ r.length := by
  unfold validate at h
  split at h
  · cases h
  · omega

/-- The payload of a stored response that validates is the one R157 gives. -/
theorem stored_payload (r : List Byte) (s : State) (hr : r.length ≤ Config.bufMax) (h4 : Config.rspMin ≤ r.length) :
    ({ stored r s with plen := (stored r s).rxlen - 3 } : State).payload = some (payloadOf r) := by
  have h32 : Config.bufMax = 32 := rfl
  have hmin : Config.rspMin = 4 := rfl
  have hl : (BitVec.ofNat 8 r.length - 3 : Byte).toNat = r.length - 3 := by
    have := toNat_length r.length hr
    rw [BitVec.toNat_sub_of_le (by rw [BitVec.le_def, this]; simp; omega), this]
    rfl
  simp only [State.payload, stored, hl]
  rw [Memory.readAll_putAll_part _ _ _ _ (by omega), payloadOf]
  congr 1
  rw [List.drop_take, show r.length - 2 - 1 = r.length - 3 by omega]

end Sys2Proof.Machine
end

