-- ==== Sys2Proof/Laws/Step.lean ====
section
/-! SUPPORT. What a step can do, said once: the engine's steps by sequencer state, the end of a transaction by its continuation, and the
move of the host. -/

namespace Sys2Proof.Machine

/-- Everything `SEND` can do (R182). -/
theorem sendStep_cases (s : State) :
    (∃ f, s.frame = some f ∧ sendStep s = .next (sendFrame f s)) ∨ (s.frame = none ∧ sendStep s = .fault .unwrittenByte) := by
  cases h : s.frame with
  | some f => exact .inl ⟨f, rfl, sendStep_frame h⟩
  | none => exact .inr ⟨rfl, by simp [sendStep, h]⟩

/-- Everything `BACKOFF` can do (R185, R311). -/
theorem backoffStep_cases (s : State) :
    (s.world.timer = 0 ∧ backoffStep s = .next s) ∨
    (∃ left, s.world.timer = left + 1 ∧
      backoffStep s = .next { s.takeDelay (Config.backoffUnitMs * s.att.toNat) left with seq := .send }) := by
  cases h : s.world.timer with
  | zero => exact .inl ⟨rfl, by simp [backoffStep, h]⟩
  | succ left => exact .inr ⟨left, rfl, by simp [backoffStep, h]⟩

/-- The decode arm of a `GET.*` whose payload reads back (R243). -/
theorem getDecode_payload {f : Family} {s : State} {p : List Byte} (h : s.payload = some p) :
    getDecode f s = .next (completeDecode (Opcode.get f) s (decodeFamily f p s)) := by
  simp [getDecode, h]

/-- Everything `FinishOK` can do once the response `r` is stored (R186, R243). -/
theorem finishOk_stored {r : List Byte} {s : State} {a : Byte} {ics : Bool} (hr : r.length ≤ Config.bufMax)
    (hv : validate r a ics = none) :
    let t : State := { stored r s with plen := (stored r s).rxlen - 3 }
    finishOk (stored r s) = .next (match s.cont with
      | .raw => State.completeOk Opcode.xact t
      | .opening => openSuccess t
      | .closing => closeSuccess t
      | .get f => completeDecode (Opcode.get f) t (decodeFamily f (payloadOf r) t)) := by
  have hp := stored_payload r s hr (validate_length hv)
  have hc : s.cont = (stored r s).cont := rfl
  rw [hc]
  revert hp
  generalize stored r s = u
  intro hp
  cases u
  rename_i cont _ _
  cases cont with
  | raw => rfl
  | opening => rfl
  | closing => rfl
  | get f => exact getDecode_payload hp

/-- What a received response leads to: `FinishOK` or `RetryOrFail` on the stored response (R183). -/
theorem recvStep_answer {s : State} {r : List Byte} {rest : List (List Byte)} {a : Byte} (hw : s.world.answers = r :: rest)
    (hr : r.length ≤ Config.rdMax) (ha : Memory.read s.txbuf 0 = some a) :
    recvStep s = match validate r a s.ics with
      | none => finishOk (stored r (s.takeAnswer r rest))
      | some v => .next (retryOrFail v (stored r (s.takeAnswer r rest))) := by
  have h32 : Config.rdMax = Config.bufMax := rfl
  have ht : r.take Config.rdMax = r := List.take_of_length_le hr
  have ha' : Memory.read (s.takeAnswer r rest).txbuf 0 = some a := ha
  simp only [recvStep, hw, ht, receive_fits (h32 ▸ hr) ha']
  rfl

/-- While the channel does not return, `RECV` stays as it is (R191, R311). -/
theorem recvStep_hang {s : State} (h : s.world.answers = []) : recvStep s = .next s := by
  simp [recvStep, h]

/-- A step without a move of the host is the engine's. -/
theorem step_engine {s : State} (h : s.world.host = []) : step s = engineStep s := by
  simp [step, machineStep, h]

/-- An idle engine accepts the host's word (R305). -/
theorem step_accept {s : State} {w : List Byte} {rest : List HostMove} (hb : s.busy = false) (h : s.world.host = .issue w :: rest) :
    step s = accept w (s.withHost rest) := by
  simp [step, machineStep, h, hb]

/-- A busy engine holds the port (R305). -/
theorem step_held {s : State} {w : List Byte} {rest : List HostMove} (hb : s.busy = true) (h : s.world.host = .issue w :: rest) :
    step s = engineStep s := by
  simp [step, machineStep, h, hb]

/-- The other moves of the host. -/
theorem step_readReg {s : State} {n : Byte} {rest : List HostMove} (h : s.world.host = .readReg n :: rest) :
    step s = readStep n (s.withHost rest) := by
  simp [step, machineStep, h]

theorem step_reset {s : State} {rest : List HostMove} (h : s.world.host = .reset :: rest) :
    step s = .next (applyReset (s.withHost rest)) := by
  simp [step, machineStep, h]

theorem step_pass {s : State} {rest : List HostMove} (h : s.world.host = .pass :: rest) : step s = engineStep (s.withHost rest) := by
  simp [step, machineStep, h]

/-- A run of no steps. -/
theorem core_run_zero (s : State) : Sys2Proof.core.run 0 s = .next s := rfl

/-- A run whose first step goes on. -/
theorem core_run_succ (n : Nat) (s t : State) (h : step s = .next t) : Sys2Proof.core.run (n + 1) s = Sys2Proof.core.run n t := by
  have key (M : Host.Core) (s t : M.State) (h : M.step s = .next t) : M.run (n + 1) s = M.run n t := by
    simp [Host.Core.run, h]
  exact key Sys2Proof.core s t h

end Sys2Proof.Machine
end

