-- ==== Sys2Proof/Machine/Assembler.lean ====
section
/-! DEFINITION. The assembler syntax and the pseudo-instructions of spec/30_encoding.md (R111, R112): from program text to host words. No
step reads any of it; a program is the list of words it gives, issued one after another (log 16). -/

namespace Sys2Proof.Asm

/-- The pieces of a text between the characters that `p` marks. -/
def pieces (p : Char → Bool) : List Char → List (List Char)
  | [] => [[]]
  | c :: cs =>
    match p c, pieces p cs with
    | true, ts => [] :: ts
    | false, [] => [[c]]
    | false, t :: ts => (c :: t) :: ts

/-- A blank inside a line. -/
def isBlank (c : Char) : Bool := c == ' ' || c == '\t' || c == '\r'

/-- The words of a text between blanks. -/
def blankWords (l : List Char) : List (List Char) := (pieces isBlank l).filter (fun w => !w.isEmpty)

/-- The digits of a hex pair in rising order (R111); a decimal number uses the first ten. -/
def digitChars : List Char := "0123456789ABCDEF".toList

/-- The value of one digit, its place in the row; the letters stand for the same digits in either case (log 16). -/
def digit (c : Char) : Option Nat := digitChars.findIdx? (· == c.toUpper)

/-- Digits of a base, read on from the value so far. -/
def digitsFrom (base : Nat) : Nat → List Char → Option Nat
  | v, [] => some v
  | v, c :: cs =>
    match digit c with
    | some d => if d < base then digitsFrom base (v * base + d) cs else none
    | none => none

/-- A nonempty string of digits. -/
def numeral (base : Nat) (l : List Char) : Option Nat := if l.isEmpty then none else digitsFrom base 0 l

/-- "A number is decimal, or hexadecimal with the prefix `0x`" (R111). -/
def number : List Char → Option Nat
  | '0' :: 'x' :: ds => numeral 16 ds
  | ds => numeral 10 ds

/-- A number operand that fits a field of `n` bits. -/
def field (n : Nat) (l : List Char) : Option (BitVec n) :=
  match blankWords l with
  | [w] => (number w).bind (fun v => if v < 2 ^ n then some (BitVec.ofNat n v) else none)
  | _ => none

/-- A hex pair. -/
def hexPair : List Char → Option Byte
  | [a, b] => (numeral 16 [a, b]).map (BitVec.ofNat 8)
  | _ => none

/-- "A byte list is hex pairs without a prefix, separated by spaces; `-` is the empty list" (R111). -/
def byteList (l : List Char) : Option (List Byte) :=
  match blankWords l with
  | [] => none
  | [['-']] => some []
  | ws => ws.mapM hexPair

/-! ### Operand shapes: each takes the operand texts, the pieces between commas -/

def noOperand (i : Instr) : List (List Char) → Option Instr
  | [l] => if (blankWords l).isEmpty then some i else none
  | _ => none

def oneList (f : List Byte → Instr) : List (List Char) → Option Instr
  | [l] => (byteList l).map f
  | _ => none

def oneByte (f : Byte → Instr) : List (List Char) → Option Instr
  | [l] => (field 8 l).map f
  | _ => none

def twoBytes (f : Byte → Byte → Instr) : List (List Char) → Option Instr
  | [k, l] => (field 8 k).bind (fun a => (field 8 l).map (f a))
  | _ => none

def byteAndList (f : Byte → List Byte → Instr) : List (List Char) → Option Instr
  | [k, l] => (field 8 k).bind (fun a => (byteList l).map (f a))
  | _ => none

def dec3Operands (f : Byte → Half → Byte → List Byte → Instr) : List (List Char) → Option Instr
  | [m, d, e, l] =>
    (field 8 m).bind (fun mask => (field 16 d).bind (fun div => (field 8 e).bind (fun len => (byteList l).map (f mask div len))))
  | _ => none

/-- The operations of R111. -/
def operations : List (String × (List (List Char) → Option Instr)) :=
  [("CRC16", oneList .crc16), ("XACT", byteAndList .xact), ("DEC3", dec3Operands .dec3), ("DEC4", oneList .dec4),
   ("WCFG", twoBytes .wcfg), ("OPEN", noOperand .openSession), ("CLOSE", noOperand .closeSession),
   ("GET.VOLT", noOperand .getVolt), ("GET.CURR", noOperand .getCurr), ("GET.PREAL", noOperand .getPreal),
   ("GET.PREACT", noOperand .getPreact), ("GET.PAPP", noOperand .getPapp), ("GET.PF", noOperand .getPf),
   ("GET.ENERGY", noOperand .getEnergy)]

/-- The pseudo-instructions of R112. -/
def pseudoOperations : List (String × (List (List Char) → Option Instr)) :=
  [("REQ.VOLT", oneByte (fun a => (Pseudo.reqVolt a).expand)), ("REQ.CURR", oneByte (fun a => (Pseudo.reqCurr a).expand)),
   ("REQ.PREAL", oneByte (fun a => (Pseudo.reqPreal a).expand)), ("REQ.PREACT", oneByte (fun a => (Pseudo.reqPreact a).expand)),
   ("REQ.PAPP", oneByte (fun a => (Pseudo.reqPapp a).expand)), ("REQ.PF", oneByte (fun a => (Pseudo.reqPf a).expand)),
   ("REQ.ENERGY", oneByte (fun a => (Pseudo.reqEnergy a).expand)), ("REQ.OPEN", oneByte (fun a => (Pseudo.reqOpen a).expand)),
   ("REQ.CLOSE", oneByte (fun a => (Pseudo.reqClose a).expand)),
   ("DEC.VOLT", oneList (fun p => (Pseudo.decVolt p).expand)), ("DEC.CURR", oneList (fun p => (Pseudo.decCurr p).expand)),
   ("DEC.PREAL", oneList (fun p => (Pseudo.decPreal p).expand)), ("DEC.PREACT", oneList (fun p => (Pseudo.decPreact p).expand)),
   ("DEC.PAPP", oneList (fun p => (Pseudo.decPapp p).expand)), ("DEC.PF", oneList (fun p => (Pseudo.decPf p).expand)),
   ("DEC.ENERGY", oneList (fun p => (Pseudo.decEnergy p).expand)),
   ("CHK.ON", oneByte (fun d => (Pseudo.chkOn d).expand)), ("CHK.OFF", oneByte (fun d => (Pseudo.chkOff d).expand))]

/-- What stands before a comment: "`;` starts a comment" (R111). -/
def withoutComment (l : List Char) : List Char := l.takeWhile (· != ';')

/-- The operation of one line, whose blanks in front are gone: a mnemonic, then its operands between commas. The byte list must fit its
length byte. -/
def operation (l : List Char) : Option Instr :=
  let mnemonic := l.takeWhile (fun c => !isBlank c)
  let operands := pieces (· == ',') (l.dropWhile (fun c => !isBlank c))
  match (operations ++ pseudoOperations).find? (fun row => row.1.toList == mnemonic) with
  | some row => (row.2 operands).bind (fun i => if i.encodable then some i else none)
  | none => none

/-- The words of the lines of a program: one operation per line, blank lines and comments skipped (R111). None where a line is no
operation. -/
def assembleLines : List (List Char) → Option (List (List Byte))
  | [] => some []
  | l :: ls =>
    let text := (withoutComment l).dropWhile isBlank
    if text.isEmpty then assembleLines ls
    else
      match operation text, assembleLines ls with
      | some i, some ws => some (encode i :: ws)
      | _, _ => none

/-- The assembler: a program's host words (R111, R112). -/
def assemble (program : String) : Option (List (List Byte)) := assembleLines (pieces (· == '\n') program.toList)

end Sys2Proof.Asm
end

