-- ==== Sys2Proof/Tests/Slice0.lean ====
section
/-! SUPPORT. The model's own tests. Expected results are the spec's: spec/95_test_vectors.md, whose rows (V, Q, X, F, P) are named at each
test, the formats of spec/30_encoding.md, and the listing of spec/40_crc.md. The witnesses of the statements' hypotheses follow at the end. -/

namespace Sys2Proof.Tests

open Sys2Proof.Machine

/-! ### Small states -/

/-- The state a meaning or a step leads to. -/
def after : Result → Option State
  | .next t => some t
  | .fault _ => none
  | .refused _ => none

/-- The reset state with the host about to make these moves. -/
def hostMoves (m : List HostMove) : State := State.reset.withHost m

/-- The reset state with a session open. -/
def inSession : State := { State.reset with status := 0x0006 }

/-- A state in `SEND` for these command bytes, address 0, with this continuation. -/
def sending (c : List Byte) (k : Cont) (s : State) : State :=
  match startXact 0x00 c k s with
  | .next t => t
  | .fault _ => s
  | .refused _ => s

/-- A state in `RECV` on the attempt `n`, whose channel will give this answer. -/
def receiving (c : List Byte) (k : Cont) (n : Byte) (r : List Byte) (s : State) : State :=
  { sending c k s with seq := .recv, att := n, world := { s.world with answers := [r] } }

/-- A state in `BACKOFF` after `n` attempts, with the timer to report once. -/
def waiting (n : Byte) : State :=
  { sending [0x02] .raw State.reset with
    seq := .backoff, att := n, status := 0x0101, world := { State.reset.world with timer := 1 } }

/-! ### WellFormed refuses an ill-formed term for each of its checks -/

theorem test_wf_crc16_too_long : (Instr.crc16 (List.replicate 256 0)).wellFormed = false := by decide +kernel
theorem test_wf_xact_too_long : (Instr.xact 0 (List.replicate 256 0)).wellFormed = false := by decide +kernel
theorem test_wf_dec3_too_long : (Instr.dec3 0xFF 1 9 (List.replicate 256 0)).wellFormed = false := by decide +kernel
theorem test_wf_dec4_too_long : (Instr.dec4 (List.replicate 256 0)).wellFormed = false := by decide +kernel
theorem test_wf_divisor_zero : (Instr.dec3 0xFF 0 9 []).wellFormed = false := by decide
theorem test_wf_reserved_bits : (Instr.wcfg 0x02 0x00).wellFormed = false ∧ (Instr.wcfg 0x80 0x00).wellFormed = false := by decide
theorem test_wf_longest : (Instr.dec3 0xFF 1 9 (List.replicate 255 0)).wellFormed = true := by decide +kernel

/-! ### Decoding: every constructor from a word written out by its format (R92 to R98, R106) -/

theorem test_decode_crc16 : decodeAt .host [0x01, 0x02, 0x31, 0x32] = .ok (.crc16 [0x31, 0x32]) := by decide
theorem test_decode_xact : decodeAt .host [0x02, 0x00, 0x03, 0x08, 0x16, 0x11] = .ok (.xact 0x00 [0x08, 0x16, 0x11]) := by decide
theorem test_decode_dec3 : decodeAt .host [0x03, 0x3F, 0xE8, 0x03, 0x0C, 0x02, 0xC0, 0xDB] = .ok (.dec3 0x3F 1000 12 [0xC0, 0xDB]) := by
  decide
theorem test_decode_dec4 : decodeAt .host [0x04, 0x03, 0x01, 0x02, 0x03] = .ok (.dec4 [0x01, 0x02, 0x03]) := by decide
theorem test_decode_wcfg : decodeAt .host [0x05, 0x01, 0x05] = .ok (.wcfg 0x01 0x05) := by decide
theorem test_decode_open : decodeAt .host [0x10] = .ok .openSession := by decide
theorem test_decode_close : decodeAt .host [0x11] = .ok .closeSession := by decide
theorem test_decode_getVolt : decodeAt .host [0x20] = .ok .getVolt := by decide
theorem test_decode_getCurr : decodeAt .host [0x21] = .ok .getCurr := by decide
theorem test_decode_getPreal : decodeAt .host [0x22] = .ok .getPreal := by decide
theorem test_decode_getPreact : decodeAt .host [0x23] = .ok .getPreact := by decide
theorem test_decode_getPapp : decodeAt .host [0x24] = .ok .getPapp := by decide
theorem test_decode_getPf : decodeAt .host [0x25] = .ok .getPf := by decide
theorem test_decode_getEnergy : decodeAt .host [0x26] = .ok .getEnergy := by decide
theorem test_decode_wireVolt : decodeAt .wire [0x08, 0x16, 0x11] = .ok .wireVolt := by decide
theorem test_decode_wireCurr : decodeAt .wire [0x08, 0x16, 0x21] = .ok .wireCurr := by decide
theorem test_decode_wirePreal : decodeAt .wire [0x08, 0x16, 0x00] = .ok .wirePreal := by decide
theorem test_decode_wirePreact : decodeAt .wire [0x08, 0x16, 0x04] = .ok .wirePreact := by decide
theorem test_decode_wirePapp : decodeAt .wire [0x08, 0x16, 0x08] = .ok .wirePapp := by decide
theorem test_decode_wirePf : decodeAt .wire [0x08, 0x16, 0x30] = .ok .wirePf := by decide
theorem test_decode_wireEnergy : decodeAt .wire [0x05, 0x00, 0x00] = .ok .wireEnergy := by decide
theorem test_decode_wireOpen : decodeAt .wire [0x01, 0x01, 0x01, 0x01, 0x01, 0x01, 0x01, 0x01] = .ok .wireOpen := by decide
theorem test_decode_wireClose : decodeAt .wire [0x02] = .ok .wireClose := by decide

/-- R100 (a) to (c), each by its name; V22. -/
theorem test_decode_rejects :
    decodeAt .host [] = .error .emptyWord ∧ decodeAt .host [0x07] = .error (.unknownOpcode 0x07) ∧
    decodeAt .host [0x20, 0x00] = .error (.badLength 0x20) ∧ decodeAt .host [0x01] = .error (.badLength 0x01) ∧
    decodeAt .host [0x03, 0xFF, 0x64, 0x00, 0x09, 0x08, 1, 2, 3, 4, 5, 6, 7, 8, 9] = .error (.badLength 0x03) ∧
    decodeAt .wire [0x08, 0x16, 0x12] = .error .notInCatalogue := by decide

/-- The opcode table's words: a host row's byte, a wire row's bytes first-sent first (log 13). -/
theorem test_decode_table :
    decodeTableWord 8 0x01 = some (.crc16 []) ∧ decodeTableWord 8 0x02 = some (.xact 0x00 []) ∧ decodeTableWord 8 0x26 = some .getEnergy ∧
    decodeTableWord 24 0x081611 = some .wireVolt ∧ decodeTableWord 64 0x0101010101010101 = some .wireOpen ∧
    decodeTableWord 8 0x07 = none := by decide

/-! ### Assembler (R111, R112) -/

/-- The two examples of R111. -/
theorem test_assemble_examples :
    Asm.assemble "XACT 0x00, 08 16 11 ; voltage\n\nXACT 0x00, -" = some [[0x02, 0x00, 0x03, 0x08, 0x16, 0x11], [0x02, 0x00, 0x00]] := by
  decide

/-- P4: `DEC.PF`. P7: `REQ.CLOSE`, `CHK.OFF`. -/
theorem test_assemble_pseudo :
    Asm.assemble "DEC.PF C0 DB\nREQ.CLOSE 0x00\nCHK.OFF 0x00" =
      some [[0x03, 0x3F, 0xE8, 0x03, 0x0C, 0x02, 0xC0, 0xDB], [0x02, 0x00, 0x01, 0x02], [0x05, 0x01, 0x00]] := by decide

/-! ### Checksum -/

/-- The table's entries from one index up. -/
def tableFrom (lo n : Nat) : List Half := (List.range n).map (fun k => crcTable (BitVec.ofNat 8 (lo + k)))

/-- The listing of R130, in two halves. -/
theorem test_crc_table_low :
    tableFrom 0x00 128 =
      [0x0000, 0xC0C1, 0xC181, 0x0140, 0xC301, 0x03C0, 0x0280, 0xC241, 0xC601, 0x06C0, 0x0780, 0xC741, 0x0500, 0xC5C1, 0xC481, 0x0440]
      ++ [0xCC01, 0x0CC0, 0x0D80, 0xCD41, 0x0F00, 0xCFC1, 0xCE81, 0x0E40, 0x0A00, 0xCAC1, 0xCB81, 0x0B40, 0xC901, 0x09C0, 0x0880, 0xC841]
      ++ [0xD801, 0x18C0, 0x1980, 0xD941, 0x1B00, 0xDBC1, 0xDA81, 0x1A40, 0x1E00, 0xDEC1, 0xDF81, 0x1F40, 0xDD01, 0x1DC0, 0x1C80, 0xDC41]
      ++ [0x1400, 0xD4C1, 0xD581, 0x1540, 0xD701, 0x17C0, 0x1680, 0xD641, 0xD201, 0x12C0, 0x1380, 0xD341, 0x1100, 0xD1C1, 0xD081, 0x1040]
      ++ [0xF001, 0x30C0, 0x3180, 0xF141, 0x3300, 0xF3C1, 0xF281, 0x3240, 0x3600, 0xF6C1, 0xF781, 0x3740, 0xF501, 0x35C0, 0x3480, 0xF441]
      ++ [0x3C00, 0xFCC1, 0xFD81, 0x3D40, 0xFF01, 0x3FC0, 0x3E80, 0xFE41, 0xFA01, 0x3AC0, 0x3B80, 0xFB41, 0x3900, 0xF9C1, 0xF881, 0x3840]
      ++ [0x2800, 0xE8C1, 0xE981, 0x2940, 0xEB01, 0x2BC0, 0x2A80, 0xEA41, 0xEE01, 0x2EC0, 0x2F80, 0xEF41, 0x2D00, 0xEDC1, 0xEC81, 0x2C40]
      ++ [0xE401, 0x24C0, 0x2580, 0xE541, 0x2700, 0xE7C1, 0xE681, 0x2640, 0x2200, 0xE2C1, 0xE381, 0x2340, 0xE101, 0x21C0, 0x2080, 0xE041] := by decide +kernel
theorem test_crc_table_high :
    tableFrom 0x80 128 =
      [0xA001, 0x60C0, 0x6180, 0xA141, 0x6300, 0xA3C1, 0xA281, 0x6240, 0x6600, 0xA6C1, 0xA781, 0x6740, 0xA501, 0x65C0, 0x6480, 0xA441]
      ++ [0x6C00, 0xACC1, 0xAD81, 0x6D40, 0xAF01, 0x6FC0, 0x6E80, 0xAE41, 0xAA01, 0x6AC0, 0x6B80, 0xAB41, 0x6900, 0xA9C1, 0xA881, 0x6840]
      ++ [0x7800, 0xB8C1, 0xB981, 0x7940, 0xBB01, 0x7BC0, 0x7A80, 0xBA41, 0xBE01, 0x7EC0, 0x7F80, 0xBF41, 0x7D00, 0xBDC1, 0xBC81, 0x7C40]
      ++ [0xB401, 0x74C0, 0x7580, 0xB541, 0x7700, 0xB7C1, 0xB681, 0x7640, 0x7200, 0xB2C1, 0xB381, 0x7340, 0xB101, 0x71C0, 0x7080, 0xB041]
      ++ [0x5000, 0x90C1, 0x9181, 0x5140, 0x9301, 0x53C0, 0x5280, 0x9241, 0x9601, 0x56C0, 0x5780, 0x9741, 0x5500, 0x95C1, 0x9481, 0x5440]
      ++ [0x9C01, 0x5CC0, 0x5D80, 0x9D41, 0x5F00, 0x9FC1, 0x9E81, 0x5E40, 0x5A00, 0x9AC1, 0x9B81, 0x5B40, 0x9901, 0x59C0, 0x5880, 0x9841]
      ++ [0x8801, 0x48C0, 0x4980, 0x8941, 0x4B00, 0x8BC1, 0x8A81, 0x4A40, 0x4E00, 0x8EC1, 0x8F81, 0x4F40, 0x8D01, 0x4DC0, 0x4C80, 0x8C41]
      ++ [0x4400, 0x84C1, 0x8581, 0x4540, 0x8701, 0x47C0, 0x4680, 0x8641, 0x8201, 0x42C0, 0x4380, 0x8341, 0x4100, 0x81C1, 0x8081, 0x4040] := by decide +kernel

/-- V1 and V3. -/
theorem test_crc_short : crc16Out [] = 0xFFFF ∧ crc16Out [0xFF] = 0xFF00 := by decide

/-- V5. -/
theorem test_crc_check : crc16Out [0x31, 0x32, 0x33, 0x34, 0x35, 0x36, 0x37, 0x38, 0x39] = 0x374B := by decide +kernel

/-- F14. -/
theorem test_crc_frame : crcBytes [0x00, 0x00, 0x6E, 0x5A, 0x00, 0xE4, 0x59, 0x00, 0xCB, 0x59] = [0xF8, 0x26] := by decide +kernel

/-! ### Validation -/

/-- Q2, Q3, Q5, Q6, Q7. -/
theorem test_validate_order :
    validate [0x00, 0x00, 0x01] 0 false = some .invalidResponse ∧ validate [0x00, 0xBF, 0x40] 0 true = some .invalidResponse ∧
    validate [0x00, 0x00, 0x01, 0xB1] 0 false = some .badChecksum ∧ validate [0x01, 0x00, 0x00, 0x20] 0 false = some .badAddress ∧
    validate [0x01, 0x00, 0x00, 0x00] 0 false = some .badChecksum := by decide +kernel

/-- Q4, Q8, Q9, Q11, Q13, Q14. -/
theorem test_validate_status :
    validate [0x00, 0x00, 0x01, 0xB0] 0 false = none ∧ validate [0x01, 0x00, 0x00, 0x00] 0 true = some .badAddress ∧
    validate [0x00, 0x05, 0xC1, 0xB3] 0 false = some .deviceError ∧ validate [0x00, 0xF0, 0x01, 0xF4] 0 false = none ∧
    validate [0x00, 0x01, 0x00, 0x00] 0 true = some .deviceError ∧ validate [0x00, 0x01, 0x11, 0xB0, 0x5C] 0 false = none := by
  decide +kernel

/-! ### One step of each operation -/

/-- V4. -/
theorem test_crc16 :
    (after (exec (.crc16 [0x41]) State.reset)).map (fun t => (t.crcout, t.status, t.lop)) = some (0x7F70, 0x0002, 0x01) := by decide

/-- B1: the frame and its length; P3: the command of 30 bytes. -/
theorem test_xact :
    (after (exec (.xact 0x00 [0x08, 0x16, 0x11]) State.reset)).map (fun t => (t.frame, t.txlen, t.status, t.seq)) =
      some (some [0x00, 0x08, 0x16, 0x11, 0x4F, 0x8A], 6, 0x0001, .send) := by decide
theorem test_xact_too_long :
    (after (exec (.xact 0x00 (List.replicate 30 0)) State.reset)).map (fun t => (t.status, t.lop, t.txlen)) = some (0x0010, 0x02, 0) := by
  decide

/-- V10 and V12. -/
theorem test_dec3_voltage :
    (after (exec (.dec3 0xFF 100 9 [0x00, 0x6E, 0x5A, 0x00, 0xE4, 0x59, 0x00, 0xCB, 0x59]) State.reset)).map
      (fun t => (t.val0, t.val1, t.val2, t.dd, t.divr)) = some (23150, 23012, 22987, 0x08, 100) := by decide
theorem test_dec3_power :
    (after (exec (.dec3 0x3F 100 12 [0x82, 0x09, 0x4A, 0x40, 0x50, 0xC3, 0x00, 0x00, 0x00, 0xFF, 0xFF, 0xFF]) State.reset)).map
      (fun t => (t.val0, t.val1, t.val2, t.val3, t.dd)) = some (150025, 50000, 0, 4194303, 0) := by decide

/-- V23 and V14. -/
theorem test_dec4 :
    (after (exec (.dec4 [0x01, 0x00, 0x40, 0xE2, 0x34, 0x12, 0x78, 0x56, 0xFF, 0xFF, 0xFF, 0xFF, 0xFF, 0xFF, 0xFE, 0xFF]) State.reset)).map
      (fun t => (t.val0, t.val1, t.val2, t.val3, t.divr)) = some (123456, 305419896, 0, 4294967294, 1) := by decide
theorem test_dec4_wrong_length :
    (after (exec (.dec4 [0xFF, 0xFF, 0xFF]) State.reset)).map (fun t => (t.status, t.lop)) = some (0x0040, 0x04) := by decide

/-- P4 and P3. -/
theorem test_wcfg : (after (exec (.wcfg 0x01 0x05) State.reset)).map (fun t => (t.cfg, t.lop)) = some (0x0501, 0x05) := by decide
theorem test_wcfg_reserved : (after (exec (.wcfg 0x02 0x00) State.reset)).map (fun t => (t.status, t.cfg)) = some (0x0050, 0) := by decide

/-- F8, and the end of P1's `OPEN` and P8's failed one. -/
theorem test_open_success :
    (after (step (receiving (List.replicate 8 0x01) .opening 1 [0x00, 0x00, 0x01, 0xB0] State.reset))).map (fun t =>
      (t.status, t.lop, t.plen)) = some (0x0006, 0x10, 1) := by decide +kernel
theorem test_open_failure :
    (after (step (receiving (List.replicate 8 0x01) .opening 16 [0x00, 0x05, 0xC1, 0xB3] State.reset))).map (fun t =>
      (t.status, t.lop)) = some (0x0430, 0x10) := by decide +kernel

/-- The ends of P1's and P8's `CLOSE`. -/
theorem test_close_success :
    (after (step (receiving [0x02] .closing 1 [0x00, 0x00, 0x01, 0xB0] inSession))).map (fun t => (t.status, t.lop, t.txlen)) =
      some (0x0002, 0x11, 4) := by decide +kernel
theorem test_close_failure :
    (after (step (receiving [0x02] .closing 16 [] inSession))).map (fun t => (t.status, t.lop, t.rxlen)) = some (0x010A, 0x11, 0) := by
  decide +kernel

/-- F1 to F7: the frame each measurement sends, and V45: what it does without a session. -/
theorem test_get_frames :
    (after (exec .getVolt inSession)).map State.frame = some (some [0x00, 0x08, 0x16, 0x11, 0x4F, 0x8A]) ∧
    (after (exec .getCurr inSession)).map State.frame = some (some [0x00, 0x08, 0x16, 0x21, 0x4F, 0x9E]) ∧
    (after (exec .getPreal inSession)).map State.frame = some (some [0x00, 0x08, 0x16, 0x00, 0x8F, 0x86]) ∧
    (after (exec .getPreact inSession)).map State.frame = some (some [0x00, 0x08, 0x16, 0x04, 0x8E, 0x45]) ∧
    (after (exec .getPapp inSession)).map State.frame = some (some [0x00, 0x08, 0x16, 0x08, 0x8E, 0x40]) ∧
    (after (exec .getPf inSession)).map State.frame = some (some [0x00, 0x08, 0x16, 0x30, 0x8F, 0x92]) ∧
    (after (exec .getEnergy inSession)).map State.frame = some (some [0x00, 0x05, 0x00, 0x00, 0x10, 0x25]) := by decide +kernel
theorem test_get_no_session : (after (exec .getVolt State.reset)).map (fun t => (t.status, t.lop)) = some (0x0060, 0x20) := by decide

/-- F15 to F18: the reply of each layout, decoded in the last step of its transaction; V48: a status-only reply. -/
theorem test_get_current :
    (after (step (receiving [0x08, 0x16, 0x21] (.get .current) 1
      [0x00, 0x00, 0xD2, 0x04, 0x00, 0xF4, 0x01, 0x00, 0x39, 0x30, 0x1B, 0x2F] inSession))).map (fun t =>
      (t.status, t.lop, t.val0, t.val1, t.val2, t.dd, t.divr)) = some (0x0006, 0x21, 1234, 500, 12345, 0x08, 1000) := by decide +kernel
theorem test_get_power_factor :
    (after (step (receiving [0x08, 0x16, 0x30] (.get .powerFactor) 1
      [0x00, 0xC0, 0xDB, 0x03, 0x00, 0xE8, 0x03, 0x00, 0x00, 0x00, 0x3F, 0xFF, 0xFF, 0x70, 0x10] inSession))).map (fun t =>
      (t.status, t.lop, t.val0, t.val1, t.val2, t.val3, t.divr)) = some (0x0006, 0x25, 987, 1000, 0, 4194303, 1000) := by decide +kernel
theorem test_get_energy :
    (after (step (receiving [0x05, 0x00, 0x00] (.get .energy) 1
      [0x00, 0x01, 0x00, 0x40, 0xE2, 0x34, 0x12, 0x78, 0x56, 0xFF, 0xFF, 0xFF, 0xFF, 0xFF, 0xFF, 0xFE, 0xFF, 0x73, 0xC2] inSession))).map
      (fun t => (t.status, t.lop, t.val0, t.val1, t.val2, t.val3)) = some (0x0006, 0x26, 123456, 305419896, 0, 4294967294) := by
  decide +kernel
theorem test_get_wrong_length :
    (after (step (receiving [0x08, 0x16, 0x11] (.get .voltage) 1 [0x00, 0x00, 0x01, 0xB0] inSession))).map (fun t =>
      (t.status, t.lop, t.rxlen)) = some (0x0044, 0x20, 4) := by decide +kernel

/-- F9 at the `SEND` step, and a wire command's frame for another address (F21). -/
theorem test_wire_close :
    (after (step (sending [0x02] .raw State.reset))).map (fun t => (t.world.events, t.att, t.seq)) =
      some ([.chWrite [0x00, 0x02, 0x80, 0x71]], 1, .recv) := by decide +kernel
theorem test_wire_volt :
    (after (exec .wireVolt { State.reset with txbuf := [(0, 0x05)] })).map (fun t => t.world.events) =
      some [.chWrite [0x05, 0x08, 0x16, 0x11, 0x4F, 0x46]] := by decide +kernel

/-- X6: the retry after a short reply, and its wait. -/
theorem test_retry :
    (after (step (receiving [0x02] .raw 1 [0x00, 0x00, 0x01] State.reset))).map (fun t => (t.status, t.seq, t.rxlen, t.att)) =
      some (0x0101, .backoff, 3, 1) := by decide +kernel
theorem test_backoff : (after (step (waiting 15))).map (fun t => (t.world.events, t.seq)) = some ([.delay 750], .send) := by decide

/-- E4: 23150 at divisor 100 is 231.50. -/
theorem test_physical : physical 23150 100 = 23150 / 100 := by simp [physical]

/-! ### Witnesses: concrete states and operands that meet the hypotheses of each statement -/

/-- DecodeEncodeRoundTrip: the empty and the longest byte list, the largest divisor. -/
theorem witness_encodable :
    (Instr.dec3 0xFF 0xFFFF 0xFF (List.replicate 255 0xFF)).encodable = true ∧ (Instr.crc16 []).encodable = true ∧
    (Instr.xact 0xFF (List.replicate 255 0xFF)).encodable = true ∧ (Instr.dec4 (List.replicate 255 0xFF)).encodable = true ∧
    (Instr.wcfg 0xFF 0xFF).encodable = true := by decide +kernel

/-- EveryHostWordHasOneMeaning, WordLengthsFollowTheFormats: one word of each format, operand lists empty. -/
theorem witness_decodes :
    decodeAt .host [0x01, 0x00] = .ok (.crc16 []) ∧ decodeAt .host [0x04, 0x00] = .ok (.dec4 []) ∧
    decodeAt .host [0x02, 0xFF, 0x00] = .ok (.xact 0xFF []) ∧ decodeAt .host [0x03, 0, 0, 0, 0, 0x00] = .ok (.dec3 0 0 0 []) ∧
    decodeAt .host [0x05, 0xFF, 0xFF] = .ok (.wcfg 0xFF 0xFF) ∧ decodeAt .host [0x10] = .ok .openSession ∧
    decodeAt .host [0x11] = .ok .closeSession ∧ (familyOf .getVolt).isSome = true ∧ decodeAt .host [0x20] = .ok .getVolt := by decide

/-- IllegalWordsCompleteWithIllegalOp: each clause of R100 by a word of its own. -/
theorem witness_illegal :
    IllegalWord [] ∧ IllegalWord [0x07] ∧ IllegalWord [0x01] ∧ IllegalWord [0x10, 0x00] ∧ IllegalWord [0x05, 0x02, 0x00] ∧
    IllegalWord [0x03, 0xFF, 0x00, 0x00, 0x09, 0x00] ∧
    (hostMoves [.issue []]).busy = false ∧ (hostMoves [.issue []]).world.host = .issue [] :: [] := by
  refine ⟨.inl rfl, .inr (.inl (by decide)), .inr (.inr (.inl ?_)), .inr (.inr (.inl ?_)), .inr (.inr (.inr (.inl (by decide)))),
    .inr (.inr (.inr (.inr (by decide)))), by decide, rfl⟩
  · exact fun h => absurd (h.1 (.inl rfl)).1 (by decide)
  · exact fun h => absurd (h.2.2.2.2 (by decide)) (by decide)

/-- LegalWordsAreTheWellFormedInstructions: a word on each side. -/
theorem witness_legal : (Instr.wcfg 0x01 0xFF).wellFormed = true ∧ encode (.wcfg 0x01 0xFF) = [0x05, 0x01, 0xFF] ∧ IllegalWord [0x07] :=
  ⟨by decide, by decide, .inr (.inl (by decide))⟩

/-- StepRunsTheDecodedWord. -/
theorem witness_step :
    (hostMoves [.issue [0x10]]).busy = false ∧ (hostMoves [.issue [0x10]]).world.host = .issue [0x10] :: [] ∧
    decodeAt .host [0x10] = .ok .openSession := by decide

/-- StepRunsTheWireCommandInSend, SendStepWritesTheWholeFrame, WireCommandsSendTheirFrames. -/
theorem witness_send :
    (sending [0x02] .raw State.reset).seq = .send ∧ (sending [0x02] .raw State.reset).world.host = [] ∧
    (.wireClose, [0x02]) ∈ catalogue ∧ Memory.read (sending [0x02] .raw State.reset).txbuf 0 = some 0x00 ∧
    (sending [0x02] .raw State.reset).frame = some (0x00 :: [0x02] ++ sentCrc (0x00 :: [0x02])) := by decide +kernel

/-- WireCommandsSendTheirFrames: every wire command stands in the catalogue. -/
theorem witness_catalogue :
    catalogue.map Prod.fst =
      [.wireVolt, .wireCurr, .wirePreal, .wirePreact, .wirePapp, .wirePf, .wireEnergy, .wireOpen, .wireClose] := by decide

/-- IssuePortIsHeldWhileBusy. -/
theorem witness_held :
    let s := (waiting 1).withHost [.issue [0x10]]
    s.busy = true ∧ s.world.host = .issue [0x10] :: [] ∧ (after (step (s.withHost []))).isSome = true := by decide

/-- SingleBitErrorsAreDetected: the first and the last bit of F10. -/
theorem witness_bits : crc16Reg [0x00, 0x00, 0x01, 0xB0] = 0 ∧ 0 < 4 ∧ 3 < 4 ∧ 0 < 8 ∧ 7 < 8 := by decide

/-- AddressBitErrorReportsBadChecksum, TrailingBytesAfterAGoodFrame: F10 and the longest response, F27. -/
theorem witness_valid :
    validate [0x00, 0x00, 0x01, 0xB0] 0x00 false = none ∧
    validate ([0x00] ++ (List.range 29).map (BitVec.ofNat 8) ++ [0x39, 0x4A]) 0x00 false = none := by decide +kernel

/-- AcceptStepStartsTheTransaction: the shortest and the longest command, and every operation that starts a transaction. -/
theorem witness_transactions :
    transactionOf State.reset (.xact 0x05 []) = some (0x05, [], .raw) ∧
    (transactionOf State.reset (.xact 0x05 (List.replicate 29 0))).isSome = true ∧
    (transactionOf State.reset .openSession).isSome = true ∧ (transactionOf State.reset .closeSession).isSome = true ∧
    ([.getVolt, .getCurr, .getPreal, .getPreact, .getPapp, .getPf, .getEnergy] : List Instr).all
      (fun i => (transactionOf inSession i).isSome) = true := by decide

/-- TooLongCommandIsInvalid: 30 bytes. MeasurementWithoutSessionIsRefused: each measurement. -/
theorem witness_no_transaction :
    29 < (List.replicate 30 (0 : Byte)).length ∧ Status.sess State.reset.status = false ∧
    ([.getVolt, .getCurr, .getPreal, .getPreact, .getPapp, .getPf, .getEnergy] : List Instr).all (fun i => (familyOf i).isSome) = true := by
  decide

/-- FailedAttemptGoesToBackoff: the first and the fifteenth attempt, each failing check. SixteenthFailureEndsTheTransaction: each
continuation. -/
theorem witness_failures :
    (let s := receiving [0x02] .raw 15 [] State.reset
     s.seq = .recv ∧ s.world.host = [] ∧ s.world.answers = [] :: [] ∧ Memory.read s.txbuf 0 = some 0x00 ∧ s.att ≠ 16 ∧
     validate [] 0x00 s.ics = some .invalidResponse ∧ validate [0x00, 0x00, 0x01, 0xB1] 0x00 s.ics = some .badChecksum ∧
     validate [0x01, 0x00, 0x00, 0x20] 0x00 s.ics = some .badAddress ∧ validate [0x00, 0x05, 0xC1, 0xB3] 0x00 s.ics = some .deviceError) ∧
    (([.raw, .opening, .closing, .get .voltage] : List Cont).all fun k =>
      let s := receiving [0x02] k 16 [] inSession
      decide (s.seq = .recv ∧ s.world.host = [] ∧ s.world.answers = [] :: [] ∧ Memory.read s.txbuf 0 = some 0x00 ∧ s.att = 16 ∧
        validate [] 0x00 s.ics = some .invalidResponse ∧ s.cont = k)) = true := by decide +kernel

/-- BackoffWaitsFiftyMillisecondsPerAttempt: the first and the last wait. -/
theorem witness_backoff :
    (waiting 1).seq = .backoff ∧ (waiting 1).world.host = [] ∧ (waiting 1).world.timer = 0 + 1 ∧ (waiting 15).seq = .backoff ∧
    (waiting 15).world.timer = 0 + 1 := by decide

/-- ValidResponseEndsTheTransaction: each continuation that is no measurement. -/
theorem witness_success :
    (([.raw, .opening, .closing] : List Cont).all fun k =>
      let s := receiving [0x02] k 1 [0x00, 0x00, 0x01, 0xB0] State.reset
      decide (s.seq = .recv ∧ s.world.host = [] ∧ s.world.answers = [0x00, 0x00, 0x01, 0xB0] :: [] ∧
        Memory.read s.txbuf 0 = some 0x00 ∧ validate [0x00, 0x00, 0x01, 0xB0] 0x00 s.ics = none ∧ s.cont = k)) = true := by decide +kernel

/-- MeasurementDecodesThreeByteRegisters: F14 for the two 9-byte families and F16 for the four 12-byte families. -/
theorem witness_three_byte :
    (([(Family.voltage, 0xFF, 100, 9), (.current, 0xFF, 1000, 9)] : List (Family × Nat × Nat × Nat)).all fun p =>
      let r : List Byte := [0x00, 0x00, 0x6E, 0x5A, 0x00, 0xE4, 0x59, 0x00, 0xCB, 0x59, 0xF8, 0x26]
      let s := receiving [0x08, 0x16, 0x11] (.get p.1) 1 r inSession
      decide (s.seq = .recv ∧ s.cont = .get p.1 ∧ s.world.host = [] ∧ s.world.answers = r :: [] ∧ Memory.read s.txbuf 0 = some 0x00 ∧
        validate r 0x00 s.ics = none ∧ r.length - 3 = p.2.2.2)) = true ∧
    (([(Family.realPower, 0x3F, 100, 12), (.reactivePower, 0x3F, 100, 12), (.apparentPower, 0x3F, 100, 12),
       (.powerFactor, 0x3F, 1000, 12)] : List (Family × Nat × Nat × Nat)).all fun p =>
      let r : List Byte := [0x00, 0x82, 0x09, 0x4A, 0x40, 0x50, 0xC3, 0x00, 0x00, 0x00, 0xFF, 0xFF, 0xFF, 0x02, 0x49]
      let s := receiving [0x08, 0x16, 0x11] (.get p.1) 1 r inSession
      decide (s.seq = .recv ∧ s.cont = .get p.1 ∧ s.world.host = [] ∧ s.world.answers = r :: [] ∧ Memory.read s.txbuf 0 = some 0x00 ∧
        validate r 0x00 s.ics = none ∧ r.length - 3 = p.2.2.2)) = true := by decide +kernel

/-- MeasurementDecodesEnergyRegisters: F18. MeasurementOfWrongLengthIsADecodeError: F10, for every family. -/
theorem witness_energy :
    (let r : List Byte := [0x00, 0x01, 0x00, 0x40, 0xE2, 0x34, 0x12, 0x78, 0x56, 0xFF, 0xFF, 0xFF, 0xFF, 0xFF, 0xFF, 0xFE, 0xFF, 0x73, 0xC2]
     let s := receiving [0x05, 0x00, 0x00] (.get .energy) 1 r inSession
     s.seq = .recv ∧ s.cont = .get .energy ∧ s.world.host = [] ∧ s.world.answers = r :: [] ∧ r.length = 19 ∧
     Memory.read s.txbuf 0 = some 0x00 ∧ validate r 0x00 s.ics = none) ∧
    (let r : List Byte := [0x00, 0x00, 0x01, 0xB0]
     let s := receiving [0x08, 0x16, 0x11] (.get .voltage) 1 r inSession
     s.seq = .recv ∧ s.cont = .get .voltage ∧ s.world.host = [] ∧ s.world.answers = r :: [] ∧ Memory.read s.txbuf 0 = some 0x00 ∧
     validate r 0x00 s.ics = none ∧ r.length - 3 ≠ 9 ∧ r.length - 3 ≠ 12 ∧ r.length - 3 ≠ 16) := by decide +kernel

/-- TransactionEndsAfterItsAttempts: one attempt that validates, and sixteen that fail. -/
theorem witness_attempts :
    (let rs : List (List Byte) := [[0x00, 0x00, 0x01, 0xB0]]
     let s : State := { hostMoves [.issue [0x02, 0x00, 0x01, 0x02]] with world := { State.reset.world with host := [.issue [0x02, 0x00, 0x01, 0x02]], answers := rs } }
     s.busy = false ∧ s.world.host = [.issue [0x02, 0x00, 0x01, 0x02]] ∧ decodeAt .host [0x02, 0x00, 0x01, 0x02] = .ok (.xact 0x00 [0x02]) ∧
     transactionOf s (.xact 0x00 [0x02]) = some (0x00, [0x02], .raw) ∧ s.world.answers = rs ++ [] ∧ 1 ≤ rs.length ∧ rs.length ≤ 16 ∧
     rs.length ≤ s.world.timer + 1 ∧ rs.dropLast = [] ∧ rs.getLast? = some [0x00, 0x00, 0x01, 0xB0] ∧
     validate [0x00, 0x00, 0x01, 0xB0] 0x00 s.ics = none) ∧
    (let rs : List (List Byte) := List.replicate 16 []
     rs.length = 16 ∧ rs.all (fun r => decide (r.length ≤ 32)) = true ∧ rs.dropLast.all (fun r => decide (validate r 0x00 false ≠ none)) = true ∧
     rs.length ≤ 15 + 1) := by decide +kernel

/-- HangsAreKept: in `RECV` and in `BACKOFF`, with the port free and with a word held. -/
theorem witness_hangs :
    (let s : State := { waiting 1 with seq := .recv }
     s.busy = true ∧ s.world.host = [] ∧ s.world.answers = []) ∧
    (let s : State := { waiting 1 with world := { State.reset.world with host := [.issue [0x10]] } }
     s.busy = true ∧ s.world.host = .issue [0x10] :: [] ∧ s.seq = .backoff ∧ s.world.timer = 0) := by decide

/-- Dec3DecodesEverySlot, ThreeByteValuesAreUnsigned: payloads of 0, 12 and 255 bytes, the smallest and the largest divisor; a slot inside the
payload and one past it; SentinelReadsAsZero, its 3-byte clause: a slot that is 0 and one that is not. DecodeOfWrongLengthIsADecodeError, Dec4DecodesEveryRegister, SentinelReadsAsZero: 12, 15 and 16 bytes. -/
theorem witness_decode_lengths :
    (1 : Half) ≠ 0 ∧ (0xFFFF : Half) ≠ 0 ∧ ([] : List Byte).length = (0 : Byte).toNat ∧
    (List.replicate 12 (0 : Byte)).length = (12 : Byte).toNat ∧ (List.replicate 255 (0 : Byte)).length = (255 : Byte).toNat ∧
    3 * 3 + 2 < (List.replicate 12 (0 : Byte)).length ∧ (List.replicate 12 (0 : Byte)).length ≠ (9 : Byte).toNat ∧
    (List.replicate 15 (0 : Byte)).length ≠ 16 ∧ (List.replicate 16 (0 : Byte)).length = 16 ∧
    (after (exec (.dec3 0x3F 1 12 (List.replicate 12 0xFF)) State.reset)).map (fun t => t.dd.getLsbD 3) = some false ∧
    (after (exec (.dec3 0x3F 1 6 [0xC0, 0x00, 0x00, 0xFF, 0xFF, 0xFF]) State.reset)).map (fun t => (t.slot 0, t.slot 1)) =
      some (0, 0x3FFFFF) ∧
    (after (exec (.dec4 (List.replicate 16 0xFF)) State.reset)).isSome = true := by decide +kernel

/-- WcfgWritesTheConfiguration: 0 and 1. IllegalOperandsCompleteWithIllegalOp: 2 and 255. -/
theorem witness_wcfg : (0 : Byte).toNat < 2 ∧ (1 : Byte).toNat < 2 ∧ 2 ≤ (2 : Byte).toNat ∧ 2 ≤ (255 : Byte).toNat := by decide

/-- RawTransactionIgnoresAddressAndSession: a command that starts a transaction and one that is too long. -/
theorem witness_raw :
    (after (exec (.xact 0x00 [0x02]) State.reset)).isSome = true ∧ (after (exec (.xact 0x00 (List.replicate 30 0)) State.reset)).isSome = true := by
  decide

/-- ResetActsAtAnyStep: while busy. ReadPortFollowsTheIndexMap: each clause with a hypothesis, at the ends of its range. -/
theorem witness_port :
    ((waiting 1).withHost [.reset]).world.host = .reset :: [] ∧
    (let s : State := { State.reset with
        status := 0x0002, lop := 0x20, txlen := 32, rxlen := 32
        txbuf := (List.range 32).map (fun i => (i, 0x11)), rxbuf := (List.range 32).map (fun i => (i, 0x22)) }
     readReg 0x05 s = .ok 0 ∧ readReg 0x07 s = .ok 0 ∧ readReg 0x08 s = .ok 0 ∧ readReg 0x10 s = .ok 0 ∧ readReg 0x13 s = .ok 0 ∧
     readReg 0x06 { s with lop := 0x01 } = .ok 0 ∧
     Memory.read s.txbuf 0 = some 0x11 ∧ Memory.read s.txbuf 31 = some 0x11 ∧ Memory.read s.rxbuf 0 = some 0x22 ∧
     Memory.read s.rxbuf 31 = some 0x22 ∧ readReg 0x20 s = .ok 0x11 ∧ readReg 0x5F s = .ok 0x22 ∧ readReg 0x0A s = .ok 0 ∧
     readReg 0x1F s = .ok 0 ∧ readReg 0x60 s = .ok 0 ∧ readReg 0xFF s = .ok 0) := by decide

/-- ResultRegistersAreDefinedInTheirResultSet: idle, on both sides. -/
theorem witness_result_set :
    State.reset.busy = false ∧ readReg 0x06 State.reset = .error .unspecifiedResult ∧
    readReg 0x06 { State.reset with status := 0x0002, lop := 0x01 } = .ok 0 ∧
    ({ State.reset with txbuf := [(0, 0x11)], txlen := 1 } : State).frame = some [0x11] ∧
    ({ State.reset with rxbuf := [(0, 0x22)], rxlen := 1 } : State).response = some [0x22] := by decide

/-- ReadsWhileBusy: busy, with bytes below and above the lengths. -/
theorem witness_busy_reads :
    let s := sending [0x02] .raw State.reset
    s.busy = true ∧ s.frame = some [0x00, 0x02, 0x80, 0x71] ∧ s.txlen.toNat ≤ 4 ∧ s.response = some [] ∧
    ({ s with rxbuf := [(0, 0x55)], rxlen := 1 } : State).response = some [0x55] := by decide +kernel

/-- EveryStepKeepsTheStateSafe, OnlyUnspecifiedReadsStopTheMachine: a busy state that is safe. -/
theorem witness_safe_busy : SafeState (sending [0x02] (.get .voltage) inSession) where
  txCanonical := by decide +kernel
  rxCanonical := by decide +kernel
  txLength := by decide +kernel
  rxLength := by decide +kernel
  txHeld := ⟨[0x00, 0x02, 0x80, 0x71], by decide +kernel⟩
  rxHeld := ⟨[], by decide +kernel⟩
  cfgReserved := by decide +kernel
  statusReserved := by decide +kernel
  ddReserved := by decide +kernel
  errLegal := by decide +kernel
  lerrLegal := by decide +kernel
  validResult := by decide +kernel
  attempts := by decide +kernel
  busyState := by decide +kernel
  sendCount := by decide +kernel
  recvCount := by decide +kernel
  backoffCount := by decide +kernel
  frameHeld := fun _ => ⟨0x00, [0x02], by decide, by decide +kernel⟩
  sessionHeld := fun _ f _ => by decide +kernel

/-- The same statements: that state steps, and a read that faults. -/
theorem witness_safe_steps :
    (after (step (sending [0x02] (.get .voltage) inSession))).isSome = true ∧
    (after (step ((sending [0x02] (.get .voltage) inSession).withHost [.readReg 0x05]))).isSome = false := by decide +kernel

/-- OnlyTheListedWritersWriteARegister: for each clause a step with no reset that writes its register. An accepted `WCFG`, `CRC16` and `DEC4`. -/
theorem witness_writers_pure :
    (after (step (hostMoves [.issue [0x05, 0x01, 0x00]]))).map (fun t => decide (t.cfg ≠ 0 ∧ t.lop ≠ 0)) = some true ∧
    (after (step (hostMoves [.issue [0x01, 0x00]]))).map (fun t => decide (t.crcout ≠ 0)) = some true ∧
    (after (step (hostMoves [.issue (0x04 :: 0x10 :: List.replicate 16 0x01)]))).map
      (fun t => decide (t.divr ≠ 0 ∧ t.slot 3 ≠ 0)) = some true := by decide +kernel

/-- The same: an accepted `OPEN`, with `LERR`, `ATT` and `RXLEN` of an earlier transaction cleared. -/
theorem witness_writers_accept :
    let s : State := { hostMoves [.issue [0x10]] with status := 0x0100, att := 16, rxlen := 3 }
    s.busy = false ∧ (after (step s)).map (fun t =>
      decide (t.txlen ≠ 0 ∧ t.txbuf ≠ [] ∧ t.att = 0 ∧ t.rxlen = 0 ∧ Status.lerr t.status = 0 ∧ t.busy = true)) = some true := by
  decide +kernel

/-- The same: an attempt sent, a response that fails, and the ends of `OPEN`, of `CLOSE` with `CLF` set, and of a measurement. -/
theorem witness_writers_transaction :
    (after (step (sending [0x02] .raw State.reset))).map (fun t => decide (t.att = 1)) = some true ∧
    (after (step (receiving [0x02] .raw 1 [0x00, 0x00, 0x01] State.reset))).map
      (fun t => decide (t.rxbuf ≠ [] ∧ t.rxlen = 3 ∧ Status.lerr t.status ≠ 0 ∧ t.busy = true)) = some true ∧
    (after (step (receiving [0x02] .opening 1 [0x00, 0x00, 0x01, 0xB0] State.reset))).map
      (fun t => decide (Status.sess t.status = true ∧ t.plen = 1 ∧ t.busy = false ∧ t.seq = .idle)) = some true ∧
    (after (step (receiving [0x02] .closing 16 [] State.reset))).map
      (fun t => decide (Status.clf t.status = true ∧ t.seq = .idle)) = some true ∧
    (after (step (receiving [0x08, 0x16, 0x11] (.get .voltage) 1
        [0x00, 0x00, 0x6E, 0x5A, 0x00, 0xE4, 0x59, 0x00, 0xCB, 0x59, 0xF8, 0x26] inSession))).map
      (fun t => decide (t.divr = 100 ∧ t.dd = 8 ∧ t.slot 0 ≠ 0 ∧ t.seq = .idle)) = some true := by decide +kernel

end Sys2Proof.Tests
end

/-! PROOF. Which operations write which registers (R46), and when a result register is defined (R44). -/

namespace Sys2Proof.Machine

/-! ### The host level of the decoder -/

/-- Format H0 carries host operations only (R92): so each arm of the opcode map, and so the map. -/
theorem opcodeFormat_h0_level {opc : Byte} {i : Instr} : opcodeFormat opc = some (.h0 i) → i.level = .host := by
  have arm {c : Prop} [Decidable c] {f : Format} {g : Option Format} (hf : f = .h0 i → i.level = .host)
      (hg : g = some (.h0 i) → i.level = .host) : (if c then some f else g) = some (.h0 i) → i.level = .host := by
    split
    · exact fun h => hf (Option.some.inj h)
    · exact hg
  unfold opcodeFormat
  iterate 14 refine arm (by rintro ⟨⟩ <;> rfl) ?_
  exact nofun

/-- A host word decodes to a host operation, never to a wire command (R90). -/
theorem decodeAt_host_level {w : List Byte} {i : Instr} (h : decodeAt .host w = .ok i) : i.level = .host := by
  rcases w with _ | ⟨opc, rest⟩
  · cases h
  cases hf : opcodeFormat opc with
  | none => simp [decodeAt, decodeHost, hf] at h
  | some f =>
    have hr : readOperands opc f rest = .ok i := by simpa [decodeAt, decodeHost, hf] using h
    have hi := readOperands_ok hr
    cases f with
    | h0 j =>
      obtain ⟨-, rfl⟩ := hi
      exact opcodeFormat_h0_level hf
    | hc => obtain ⟨_, -, -, rfl⟩ := hi; rfl
    | hx => obtain ⟨_, _, -, -, rfl⟩ := hi; rfl
    | hd3 => obtain ⟨_, _, _, _, _, -, -, rfl⟩ := hi; rfl
    | hd4 => obtain ⟨_, -, -, rfl⟩ := hi; rfl
    | hw => obtain ⟨_, _, -, rfl⟩ := hi; rfl

/-! ### What a step writes, by the operation it belongs to -/

/-- An idle engine meets a word at the issue port (R305). -/
def MeetsWord (s : State) : Prop := s.busy = false ∧ ∃ w rest, s.world.host = .issue w :: rest

/-- An idle engine meets a word of an operation with `P`. -/
def Accepts (s : State) (P : Instr → Prop) : Prop :=
  s.busy = false ∧ ∃ w rest i, s.world.host = .issue w :: rest ∧ decodeAt .host w = .ok i ∧ P i

theorem Accepts.meetsWord {s : State} {P : Instr → Prop} (h : Accepts s P) : MeetsWord s := by
  obtain ⟨hb, w, rest, -, hw, -⟩ := h
  exact ⟨hb, w, rest, hw⟩

def IsWcfg (i : Instr) : Prop := ∃ c0 c1, i = .wcfg c0 c1

def IsCrc16 (i : Instr) : Prop := ∃ d, i = .crc16 d

def IsDecode (i : Instr) : Prop := (∃ m div e p, i = .dec3 m div e p) ∨ ∃ p, i = .dec4 p

/-- The operations that call `StartXact` in a state (R180, R241 to R243): a `GET.*` with a session only (R251). -/
def CallsStartXact (s : State) (i : Instr) : Prop :=
  (∃ a c, i = .xact a c) ∨ i = .openSession ∨ i = .closeSession ∨ ((familyOf i).isSome = true ∧ Status.sess s.status = true)

/-- The outside world replaced, every register kept. -/
def State.withWorld (s : State) (w : World) : State := { s with world := w }

@[simp] theorem State.withWorld_status (s : State) (w : World) : (s.withWorld w).status = s.status := rfl
@[simp] theorem State.withWorld_cont (s : State) (w : World) : (s.withWorld w).cont = s.cont := rfl
@[simp] theorem State.withWorld_seq (s : State) (w : World) : (s.withWorld w).seq = s.seq := rfl
@[simp] theorem State.withWorld_txbuf (s : State) (w : World) : (s.withWorld w).txbuf = s.txbuf := rfl

/-- The registers a decode writes taken from `u`, every other one from `s` (R212, R215). -/
def State.decodedFrom (u s : State) : State :=
  { s with val0 := u.val0, val1 := u.val1, val2 := u.val2, val3 := u.val3, dd := u.dd, divr := u.divr, draws := u.draws }

/-- The response `r` passes the checks of R153 to R156 in the transaction of `s`. -/
def Validates (s : State) (r : List Byte) : Prop :=
  r.length ≤ Config.bufMax ∧ ∃ a, Memory.read s.txbuf 0 = some a ∧ validate r a s.ics = none

/-- From `STATUS` `st` to `st'`, only the ends of `OPEN` and `CLOSE` write `SESS`, and only that of `CLOSE` writes `CLF`
(R241, R242). -/
structure SessionWrittenBy (k : Cont) (st st' : Half) : Prop where
  sess : Status.sess st' ≠ Status.sess st → k = .opening ∨ k = .closing
  clf : Status.clf st' ≠ Status.clf st → k = .closing

/-- The writes of one step that is no reset, by what the step is. -/
inductive StepEffect (s : State) : State → Prop
  /-- A step that waits, a read of the port, the end of a `Delay`. -/
  | waits (q : SeqState) (w : World) : StepEffect s { s.withWorld w with seq := q }
  /-- An attempt is sent (R182). -/
  | sends {w : World} (hq : s.seq = .send) : StepEffect s { s.withWorld w with att := s.att + 1, seq := .recv }
  /-- A word ends in an error in its accept step, with nothing else written (R276, R277). -/
  | refuses {e : ErrorCode} {o : Byte} {w : World} (h : MeetsWord s) : StepEffect s (State.raise e o (s.withWorld w))
  /-- `WCFG` (R240). -/
  | configures {o : Byte} {c : Half} {w : World} (h : Accepts s IsWcfg) :
    StepEffect s (State.completeOk o { s.withWorld w with cfg := c })
  /-- `CRC16` (R133). -/
  | checksums {o : Byte} {c : Half} {w : World} (h : Accepts s IsCrc16) :
    StepEffect s (State.completeOk o { s.withWorld w with crcout := c })
  /-- `DEC3` and `DEC4` (R212, R215). -/
  | decodes {o : Byte} {u : State} {w : World} (h : Accepts s IsDecode) :
    StepEffect s (State.completeOk o (State.decodedFrom u (s.withWorld w)))
  /-- The accept step of a transaction (R181). -/
  | starts {a : Byte} {c : List Byte} {k : Cont} {w : World} (h : Accepts s (CallsStartXact s)) :
    StepEffect s (started a c k (s.withWorld w))
  /-- `StartXact` with a command that is too long (R151). -/
  | rejects {e : ErrorCode} {o : Byte} {w : World} (h : Accepts s (CallsStartXact s)) :
    StepEffect s (State.raise e o { State.clearTransaction (s.withWorld w) with txlen := 0 })
  /-- An attempt fails and another one follows (R184). -/
  | retries {r : List Byte} {l : BitVec 3} {w : World} (hq : s.seq = .recv) :
    StepEffect s { stored r (s.withWorld w) with status := Status.setLerr s.status l, seq := .backoff }
  /-- The last attempt fails (R187). -/
  | fails {r : List Byte} {st : Half} {o : Byte} {w : World} (hq : s.seq = .recv) (hs : SessionWrittenBy s.cont s.status st) :
    StepEffect s { stored r (s.withWorld w) with status := st, lop := o, seq := .idle }
  /-- A response validates and no measurement comes of it (R186, R220). -/
  | succeeds {r : List Byte} {p : Byte} {st : Half} {o : Byte} {w : World} (hq : s.seq = .recv) (hv : Validates s r)
    (hs : SessionWrittenBy s.cont s.status st) :
    StepEffect s { stored r (s.withWorld w) with plen := p, status := st, lop := o, seq := .idle }
  /-- A measurement ends (R243). -/
  | measures {f : Family} {r : List Byte} {p : Byte} {u : State} {w : World} (hq : s.seq = .recv) (hk : s.cont = .get f)
    (hv : Validates s r) :
    StepEffect s (State.completeOk (Opcode.get f) (State.decodedFrom u { stored r (s.withWorld w) with plen := p }))

/-! ### The accept step -/

/-- A `Decode3` that succeeds writes the decoded registers only (R212). -/
theorem decode3_frame {p : List Byte} {m e : Byte} {div : Half} {s t : State} (h : decode3 p m div e s = some t) :
    t = State.decodedFrom t s := by
  rcases decode3_cases p m div e s with ⟨-, h'⟩ | ⟨-, h'⟩ <;> cases h'.symm.trans h
  rfl

/-- A `Decode4` that succeeds writes the decoded registers only (R215). -/
theorem decode4_frame {p : List Byte} {s t : State} (h : decode4 p s = some t) : t = State.decodedFrom t s := by
  rcases decode4_cases p s with ⟨-, h'⟩ | ⟨-, h'⟩ <;> cases h'.symm.trans h
  rfl

section
variable {s t : State} {w : World}

/-- `DEC3` and `DEC4` complete with the decoded registers, or with nothing written (R220). -/
theorem completeDecode_effect {o : Byte} {d : Option State} (ha : Accepts s IsDecode)
    (hd : ∀ u, d = some u → u = State.decodedFrom u (s.withWorld w)) :
    StepEffect s (completeDecode o (s.withWorld w) d) := by
  cases d with
  | none => exact .refuses ha.meetsWord
  | some u =>
    rw [hd u rfl]
    exact .decodes ha

/-- `StartXact` starts the transaction or ends in `INVALID_COMMAND`, and both write transaction registers (R151, R181). -/
theorem startXact_effect {a : Byte} {c : List Byte} {k : Cont} (ha : Accepts s (CallsStartXact s))
    (h : startXact a c k (s.withWorld w) = .next t) : StepEffect s t := by
  rcases startXact_cases a c k (s.withWorld w) with ⟨-, h'⟩ | ⟨-, h'⟩ <;> cases h'.symm.trans h
  · exact .starts ha
  · exact .rejects ha

/-- A `GET.*` starts its transaction in a session, and writes nothing but its error without one (R251). -/
theorem getFamily_effect {f : Family} {i : Instr} (ha : Accepts s (· = i)) (hi : (familyOf i).isSome = true)
    (h : getFamily f (s.withWorld w) = .next t) : StepEffect s t := by
  unfold getFamily at h
  split at h
  · next hs =>
    obtain ⟨hb, v, rest, j, hv, hj, rfl⟩ := ha
    exact startXact_effect ⟨hb, v, rest, j, hv, hj, .inr (.inr (.inr ⟨hi, hs⟩))⟩ h
  · cases h
    exact .refuses ha.meetsWord

/-- What an accepted operation writes. -/
theorem exec_effect {i : Instr} (ha : Accepts s (· = i)) (hl : i.level = .host) (h : exec i (s.withWorld w) = .next t) :
    StepEffect s t := by
  have accepts {P : Instr → Prop} (hP : P i) : Accepts s P := by
    obtain ⟨hb, v, rest, j, hv, hj, rfl⟩ := ha
    exact ⟨hb, v, rest, j, hv, hj, hP⟩
  cases i with
  | crc16 d =>
    cases h
    exact .checksums (accepts ⟨d, rfl⟩)
  | xact a c => exact startXact_effect (accepts (.inl ⟨a, c, rfl⟩)) h
  | dec3 m div e p =>
    simp only [exec, execDec3] at h
    split at h <;> cases h
    · exact completeDecode_effect (accepts (.inl ⟨m, div, e, p, rfl⟩)) fun u => decode3_frame
    · exact .refuses ha.meetsWord
  | dec4 p =>
    cases h
    exact completeDecode_effect (accepts (.inr ⟨p, rfl⟩)) fun u => decode4_frame
  | wcfg c0 c1 =>
    simp only [exec, execWcfg] at h
    split at h <;> cases h
    · exact .configures (accepts ⟨c0, c1, rfl⟩)
    · exact .refuses ha.meetsWord
  | openSession =>
    simp only [exec, execOpen] at h
    exact startXact_effect (accepts (.inr (.inl rfl))) h
  | closeSession =>
    simp only [exec, execClose] at h
    exact startXact_effect (accepts (.inr (.inr (.inl rfl)))) h
  | getVolt | getCurr | getPreal | getPreact | getPapp | getPf | getEnergy => exact getFamily_effect ha rfl h
  | wireVolt | wireCurr | wirePreal | wirePreact | wirePapp | wirePf | wireEnergy | wireOpen | wireClose => cases hl

/-- What the accept step writes (R305): an illegal word nothing but its error (R277). -/
theorem accept_effect {v : List Byte} {rest : List HostMove} (hb : s.busy = false) (hv : s.world.host = .issue v :: rest)
    (h : accept v (s.withWorld w) = .next t) : StepEffect s t := by
  unfold accept at h
  split at h
  · next i hi => exact exec_effect ⟨hb, v, rest, i, hv, hi, rfl⟩ (decodeAt_host_level hi) h
  · cases h
    exact .refuses ⟨hb, v, rest, hv⟩

/-! ### The engine's steps -/

/-- `FinishFail` writes `STATUS`, `LOP` and `STATE` only (R187). -/
theorem finishFail_frame (s : State) :
    ∃ st o, finishFail s = { s with status := st, lop := o, seq := .idle } ∧ SessionWrittenBy s.cont s.status st := by
  unfold finishFail
  split
  · exact ⟨_, _, rfl, ⟨by simp, by simp⟩⟩
  · next hk => exact ⟨_, _, rfl, ⟨by simp [hk], by simp⟩⟩
  · next hk => exact ⟨_, _, rfl, ⟨by simp [hk], by simp [hk]⟩⟩
  · exact ⟨_, _, rfl, ⟨by simp, by simp⟩⟩

/-- What a failed attempt writes (R184). -/
theorem retryOrFail_effect {r : List Byte} {v : ValidationError} (hq : s.seq = .recv) :
    StepEffect s (retryOrFail v (stored r (s.withWorld w))) := by
  simp only [retryOrFail]
  split
  · obtain ⟨st, o, hf, hs⟩ := finishFail_frame { stored r (s.withWorld w) with status := Status.setLerr s.status v.code }
    have hs' : SessionWrittenBy s.cont s.status st := ⟨by simpa [stored] using hs.sess, by simpa [stored] using hs.clf⟩
    exact hf ▸ .fails hq hs'
  · exact .retries hq

/-- What the end of a transaction with a response that validates writes (R186, R243). -/
theorem finishOk_effect {r : List Byte} (hq : s.seq = .recv) (hv : Validates s r)
    (h : finishOk (stored r (s.withWorld w)) = .next t) : StepEffect s t := by
  have ⟨hr, a, _, hok⟩ := hv
  rw [finishOk_stored (s := s.withWorld w) hr hok, State.withWorld_cont] at h
  cases hk : s.cont <;> simp only [hk] at h <;> cases h
  case raw => exact .succeeds hq hv ⟨by simp [stored], by simp [stored]⟩
  case opening => exact .succeeds hq hv ⟨by simp [hk], by simp [stored]⟩
  case closing => exact .succeeds hq hv ⟨by simp [hk], by simp [hk]⟩
  case get f =>
    generalize hd : decodeFamily f (payloadOf r) _ = d
    cases d with
    | none => exact .succeeds hq hv ⟨by simp [stored], by simp [stored]⟩
    | some u =>
      rw [(decodeFamily_frame hd).1]
      exact .measures hq hk hv

/-- What a response that `ChRead` may return leads to (R183). -/
theorem receive_effect {r : List Byte} (hr : r.length ≤ Config.bufMax) (hq : s.seq = .recv)
    (h : receive r (s.withWorld w) = .next t) : StepEffect s t := by
  cases ha : Memory.read s.txbuf 0 with
  | none =>
    have hw : 0 + r.length ≤ Config.bufMax := by omega
    simp [receive, Memory.write_fits hw, ha] at h
  | some a =>
    rw [receive_fits (s := s.withWorld w) hr ha] at h
    split at h
    · next hok => exact finishOk_effect hq ⟨hr, a, ha, hok⟩ h
    · cases h
      exact retryOrFail_effect hq

/-- What a step of the engine's own writes. -/
theorem engineStep_effect (h : engineStep (s.withWorld w) = .next t) : StepEffect s t := by
  cases hq : s.seq <;> simp only [engineStep, State.withWorld_seq, hq] at h
  case idle =>
    cases h
    exact .waits s.seq w
  case send =>
    rcases sendStep_cases (s.withWorld w) with ⟨f, -, h'⟩ | ⟨-, h'⟩ <;> cases h'.symm.trans h
    exact .sends hq
  case recv =>
    unfold recvStep at h
    split at h
    · cases h
      exact .waits s.seq w
    · exact receive_effect (w := _) (List.length_take_le ..) hq h
  case backoff =>
    rcases backoffStep_cases (s.withWorld w) with ⟨-, h'⟩ | ⟨left, -, h'⟩ <;> cases h'.symm.trans h
    · exact .waits s.seq w
    · exact .waits .send _

/-- What a step writes, unless it is a reset. -/
theorem step_effect (h : step s = .next t) (hn : ∀ rest, s.world.host ≠ .reset :: rest) : StepEffect s t := by
  cases hh : s.world.host with
  | nil => exact engineStep_effect (w := s.world) (step_engine hh ▸ h)
  | cons m rest =>
    cases m with
    | issue v =>
      cases hb : s.busy with
      | true => exact engineStep_effect (w := s.world) (step_held hb hh ▸ h)
      | false => exact accept_effect hb hh (step_accept hb hh ▸ h)
    | readReg n =>
      rw [step_readReg hh] at h
      unfold readStep at h
      split at h <;> cases h
      exact .waits s.seq ((s.withHost rest).logRead n _).world
    | reset => exact absurd hh (hn rest)
    | pass => exact engineStep_effect (step_pass hh ▸ h)

end

/-! ### The writers of each register

One lemma per row of R46: the effects named in its proof write the register, and every other one leaves it as it is. -/

section
variable {s t : State} (h : StepEffect s t)
include h

theorem StepEffect.accepts_wcfg_of_cfg_ne (hne : t.cfg ≠ s.cfg) : Accepts s IsWcfg := by
  cases h with
  | configures ha => exact ha
  | _ => exact absurd rfl hne

theorem StepEffect.accepts_crc16_of_crcout_ne (hne : t.crcout ≠ s.crcout) : Accepts s IsCrc16 := by
  cases h with
  | checksums ha => exact ha
  | _ => exact absurd rfl hne

theorem StepEffect.ends_of_sess_ne (hne : Status.sess t.status ≠ Status.sess s.status) :
    (s.seq = .recv ∧ t.seq = .idle) ∧ (s.cont = .opening ∨ s.cont = .closing) := by
  cases h with
  | fails hq hs | succeeds hq _ hs => exact ⟨⟨hq, rfl⟩, hs.sess hne⟩
  | _ => simp [started, stored, State.decodedFrom] at hne

theorem StepEffect.ends_of_clf_ne (hne : Status.clf t.status ≠ Status.clf s.status) :
    (s.seq = .recv ∧ t.seq = .idle) ∧ s.cont = .closing := by
  cases h with
  | fails hq hs | succeeds hq _ hs => exact ⟨⟨hq, rfl⟩, hs.clf hne⟩
  | _ => simp [started, stored, State.decodedFrom] at hne

theorem StepEffect.accepts_or_recv_of_lerr_ne (hne : Status.lerr t.status ≠ Status.lerr s.status) :
    Accepts s (CallsStartXact s) ∨ s.seq = .recv := by
  cases h with
  | starts ha | rejects ha => exact .inl ha
  | retries hq | fails hq | succeeds hq | measures hq => exact .inr hq
  | _ => simp [State.decodedFrom] at hne

theorem StepEffect.accepts_or_send_of_att_ne (hne : t.att ≠ s.att) : Accepts s (CallsStartXact s) ∨ s.seq = .send := by
  cases h with
  | starts ha | rejects ha => exact .inl ha
  | sends hq => exact .inr hq
  | _ => exact absurd rfl hne

theorem StepEffect.accepts_of_frame_ne (hne : t.txbuf ≠ s.txbuf ∨ t.txlen ≠ s.txlen) : Accepts s (CallsStartXact s) := by
  cases h with
  | starts ha | rejects ha => exact ha
  | _ => exact hne.elim (absurd rfl) (absurd rfl)

theorem StepEffect.recv_of_rxbuf_ne (hne : t.rxbuf ≠ s.rxbuf) : s.seq = .recv := by
  cases h with
  | retries hq | fails hq | succeeds hq | measures hq => exact hq
  | _ => exact absurd rfl hne

theorem StepEffect.accepts_or_recv_of_rxlen_ne (hne : t.rxlen ≠ s.rxlen) : Accepts s (CallsStartXact s) ∨ s.seq = .recv := by
  cases h with
  | starts ha | rejects ha => exact .inl ha
  | retries hq | fails hq | succeeds hq | measures hq => exact .inr hq
  | _ => exact absurd rfl hne

theorem StepEffect.ends_validated_of_plen_ne (hne : t.plen ≠ s.plen) :
    (s.seq = .recv ∧ t.seq = .idle) ∧
      ∃ r a, t.response = some r ∧ Memory.read s.txbuf 0 = some a ∧ validate r a s.ics = none := by
  cases h with
  | @succeeds r _ _ _ w hq hv =>
    obtain ⟨hr, a, ha, hok⟩ := hv
    exact ⟨⟨hq, rfl⟩, r, a, stored_response r (s.withWorld w) hr, ha, hok⟩
  | @measures _ r _ _ w hq _ hv =>
    obtain ⟨hr, a, ha, hok⟩ := hv
    exact ⟨⟨hq, rfl⟩, r, a, stored_response r (s.withWorld w) hr, ha, hok⟩
  | _ => exact absurd rfl hne

theorem StepEffect.decodes_or_measures_of_decoded_ne (hne : t.divr ≠ s.divr ∨ t.dd ≠ s.dd ∨ ∃ i, t.slot i ≠ s.slot i) :
    Accepts s IsDecode ∨ ((s.seq = .recv ∧ t.seq = .idle) ∧ ∃ f, s.cont = .get f ∧ Completed t (Opcode.get f) 0) := by
  cases h with
  | decodes ha => exact .inl ha
  | @measures f _ _ _ _ hq hk => exact .inr ⟨⟨hq, rfl⟩, f, hk, completeOk_completed ..⟩
  | _ => exact hne.elim (absurd rfl) (·.elim (absurd rfl) fun ⟨_, hi⟩ => absurd rfl hi)

theorem StepEffect.meets_or_ends_of_outcome_ne
    (hne : t.lop ≠ s.lop ∨ Status.err t.status ≠ Status.err s.status ∨ Status.rv t.status ≠ Status.rv s.status ∨
      t.busy ≠ s.busy) :
    MeetsWord s ∨ (s.seq = .recv ∧ t.seq = .idle) := by
  cases h with
  | refuses hw => exact .inl hw
  | configures ha | checksums ha | decodes ha | starts ha | rejects ha => exact .inl ha.meetsWord
  | fails hq | succeeds hq | measures hq => exact .inr ⟨hq, rfl⟩
  | waits | sends | retries => simp [State.busy, stored, State.withWorld] at hne

end

/-- Settles O47: by what a step writes (`step_effect`), and for each register the effects that write it. -/
theorem onlyTheListedWritersWriteARegister : Obligations.OnlyTheListedWritersWriteARegister := by
  intro s t h hn
  have he : StepEffect s t := step_effect h hn
  exact ⟨he.accepts_wcfg_of_cfg_ne, he.accepts_crc16_of_crcout_ne, he.ends_of_sess_ne, he.ends_of_clf_ne,
    he.accepts_or_recv_of_lerr_ne, he.accepts_or_send_of_att_ne, he.accepts_of_frame_ne, he.recv_of_rxbuf_ne,
    he.accepts_or_recv_of_rxlen_ne, he.ends_validated_of_plen_ne, he.decodes_or_measures_of_decoded_ne,
    he.meets_or_ends_of_outcome_ne⟩

/-! ### Reads of the result registers -/

/-- The index of a result register at the read port (R22). -/
def ResultReg.index : ResultReg → Byte
  | .plen => 0x05
  | .crcout => 0x06
  | .divr => 0x07
  | .dd => 0x08
  | .val0 => 0x10
  | .val1 => 0x11
  | .val2 => 0x12
  | .val3 => 0x13

/-- The port reads a result register at its index by the rule for result registers (R22, R44). -/
theorem readReg_index (r : ResultReg) (s : State) : ∃ v, readReg r.index s = readResult s r v := by
  cases r <;> exact ⟨_, rfl⟩

/-- The indices of the result registers are the eight of R22. -/
theorem exists_index_of_mem {n : Byte} (h : n ∈ ([0x05, 0x06, 0x07, 0x08, 0x10, 0x11, 0x12, 0x13] : List Byte)) :
    ∃ r : ResultReg, n = r.index := by
  simp only [List.mem_cons, List.not_mem_nil, or_false] at h
  rcases h with h | h | h | h | h | h | h | h
  exacts [⟨.plen, h⟩, ⟨.crcout, h⟩, ⟨.divr, h⟩, ⟨.dd, h⟩, ⟨.val0, h⟩, ⟨.val1, h⟩, ⟨.val2, h⟩, ⟨.val3, h⟩]

theorem ResultReg.index_eq_plen (r : ResultReg) : r.index = 0x05 ↔ r = .plen := by cases r <;> decide

theorem ResultReg.index_eq_crcout (r : ResultReg) : r.index = 0x06 ↔ r = .crcout := by cases r <;> decide

theorem ResultReg.index_mem_decoded (r : ResultReg) :
    r.index ∈ ([0x07, 0x08, 0x10, 0x11, 0x12, 0x13] : List Byte) ↔ r.ofDecode = true := by cases r <;> decide

/-- The table of R44 read by rows. -/
theorem inResultSet_iff (lop : Byte) (r : ResultReg) :
    inResultSet lop r = true ↔
      (lop = 0x01 ∧ r = .crcout) ∨
      ((lop = 0x02 ∨ lop = 0x10) ∧ r = .plen) ∨
      ((lop = 0x03 ∨ lop = 0x04) ∧ r.ofDecode = true) ∨
      (0x20 ≤ lop.toNat ∧ lop.toNat ≤ 0x26 ∧ (r = .plen ∨ r.ofDecode = true)) := by
  by_cases hop : lop = 0x01 ∨ lop = 0x02 ∨ lop = 0x03 ∨ lop = 0x04 ∨ lop = 0x10
  · rcases hop with rfl | rfl | rfl | rfl | rfl <;> cases r <;> decide
  · simp only [not_or, BitVec.ofNat_eq_ofNat] at hop
    have hs : inResultSet lop r = (isGetOpcode lop && (decide (r = .plen) || r.ofDecode)) := by
      simp [inResultSet, Opcode.crc16, Opcode.xact, Opcode.dec3, Opcode.dec4, Opcode.openSession, hop]
    simp [hs, isGetOpcode, Opcode.get, hop, and_assoc]

/-- A result register reads a value exactly where it is defined (R44, R306). -/
theorem readResult_ok_iff (s : State) (r : ResultReg) (v : Word) :
    (∃ u, readResult s r v = .ok u) ↔ s.busy = false ∧ Status.rv s.status = true ∧ inResultSet s.lop r = true := by
  rcases readResult_cases s r v with ⟨hb, h⟩ | ⟨hb, hv, hr, h⟩ | ⟨hb, hr, h⟩
  · simp [h, hb]
  · simp [h, hb, hv, hr]
  · rcases hr with hr | hr <;> simp [h, hr]

/-- A read of a result register that gives no value faults as the port says (U1, U4, U5). -/
theorem readResult_error (s : State) (r : ResultReg) (v : Word) (hn : ∀ u, readResult s r v ≠ .ok u) :
    ∃ e, readResult s r v = .error e ∧ (e = .unspecifiedResult ∨ e = .readWhileBusy) := by
  rcases readResult_cases s r v with ⟨-, h⟩ | ⟨-, -, -, h⟩ | ⟨-, -, h⟩
  · exact ⟨_, h, .inr rfl⟩
  · exact absurd h (hn v)
  · exact ⟨_, h, .inl rfl⟩

/-- A buffer byte below the valid length reads a value where the bytes read back (R34, R35). -/
theorem readBuffer_of_readAll {m : Memory} {len : Byte} {f : List Byte} {i : Nat} (hf : Memory.readAll m 0 len.toNat = some f)
    (hi : i < f.length) : ∃ v, readBuffer m len i = .ok v := by
  obtain ⟨hl, hr⟩ := Memory.readAll_eq_some.mp hf
  have hm : Memory.read m i = some f[i] := by simpa [hi] using hr i (hl ▸ hi)
  exact ⟨f[i].setWidth 32, by simp [readBuffer, hm, ← hl, hi]⟩

/-- Settles O42: the result registers by the table of R44, the buffer bytes by what reads back of the buffers. -/
theorem resultRegistersAreDefinedInTheirResultSet : Obligations.ResultRegistersAreDefinedInTheirResultSet := by
  refine ⟨fun s n hn => ?_, fun s _ => ⟨fun n hn => ?_, fun f i hf hi h32 => ?_, fun r i hr hi h32 => ?_⟩⟩
  · obtain ⟨r, rfl⟩ := exists_index_of_mem hn
    obtain ⟨v, hv⟩ := readReg_index r s
    simp only [hv, ResultReg.index_eq_plen, ResultReg.index_eq_crcout, ResultReg.index_mem_decoded, ← inResultSet_iff]
    exact ⟨readResult_ok_iff s r v, readResult_error s r v⟩
  · simp only [List.mem_cons, List.not_mem_nil, or_false] at hn
    rcases hn with rfl | rfl | rfl | rfl | rfl | rfl <;> exact ⟨_, rfl⟩
  · exact readReg_txbuf i h32 s ▸ readBuffer_of_readAll hf hi
  · exact readReg_rxbuf i h32 s ▸ readBuffer_of_readAll hr hi

end Sys2Proof.Machine

/-! PROOF. Host words: which of them decode and how long they are (R91 to R99), and which of them are illegal (R100, R101). -/

namespace Sys2Proof.Laws.EncodedLength

/-- The lengths of R99 and R106, for every instruction. -/
theorem statement_holds (i : Instr) : Statement i := by
  cases i with
  | crc16 d => exact crc16 d
  | xact a c => exact xact a c
  | dec3 m div e p => exact dec3 m div e p
  | dec4 p => exact dec4 p
  | wcfg c0 c1 => exact wcfg c0 c1
  | openSession => exact openSession
  | closeSession => exact closeSession
  | getVolt => exact getVolt
  | getCurr => exact getCurr
  | getPreal => exact getPreal
  | getPreact => exact getPreact
  | getPapp => exact getPapp
  | getPf => exact getPf
  | getEnergy => exact getEnergy
  | wireVolt => exact wireVolt
  | wireCurr => exact wireCurr
  | wirePreal => exact wirePreal
  | wirePreact => exact wirePreact
  | wirePapp => exact wirePapp
  | wirePf => exact wirePf
  | wireEnergy => exact wireEnergy
  | wireOpen => exact wireOpen
  | wireClose => exact wireClose

end Sys2Proof.Laws.EncodedLength

namespace Sys2Proof.Machine

open Laws.EncodedLength (lengthByte_toNat)

/-! ### The opcode map -/

/-- An opcode is one of this format (R92). -/
def HasOpcode (opc : Byte) : Format → Prop
  | .h0 i => encode i = [opc] ∧ i.encodable = true ∧ 0x10 ≤ opc.toNat
  | .hc => opc = 0x01
  | .hx => opc = 0x02
  | .hd3 => opc = 0x03
  | .hd4 => opc = 0x04
  | .hw => opc = 0x05

/-- The opcode map gives a format to its own opcodes: so each of its arms, and so the map. -/
theorem hasOpcode_of_opcodeFormat {opc : Byte} {f : Format} : opcodeFormat opc = some f → HasOpcode opc f := by
  have arm {c : Prop} [Decidable c] {f' : Format} {g : Option Format} (hf : c → HasOpcode opc f')
      (hg : g = some f → HasOpcode opc f) : (if c then some f' else g) = some f → HasOpcode opc f := by
    split
    · next hc => exact fun h => Option.some.inj h ▸ hf hc
    · exact hg
  unfold opcodeFormat
  iterate 5 refine arm id ?_
  iterate 9 refine arm (by rintro rfl; exact ⟨rfl, rfl, by decide⟩) ?_
  exact nofun

/-- The opcode map is defined on the opcodes of R92 and no others. -/
theorem exists_opcodeFormat_iff (opc : Byte) : (∃ f, opcodeFormat opc = some f) ↔ opc ∈ opcodes := by
  constructor
  · rintro ⟨f, hf⟩
    by_contra hn
    simp only [opcodes, List.mem_cons, List.not_mem_nil, or_false, not_or, BitVec.ofNat_eq_ofNat] at hn
    simp [opcodeFormat, Opcode.crc16, Opcode.xact, Opcode.dec3, Opcode.dec4, Opcode.wcfg, Opcode.openSession,
      Opcode.closeSession, Opcode.get, hn] at hf
  · intro h
    simp only [opcodes, List.mem_cons, List.not_mem_nil, or_false] at h
    rcases h with rfl | rfl | rfl | rfl | rfl | rfl | rfl | rfl | rfl | rfl | rfl | rfl | rfl | rfl <;> exact ⟨_, rfl⟩

/-! ### The words that decode -/

/-- A word that starts with an opcode is read by its format (R91). -/
theorem decodeAt_host_cons {opc : Byte} {rest : List Byte} {f : Format} (hf : opcodeFormat opc = some f) :
    decodeAt .host (opc :: rest) = readOperands opc f rest := by
  simp [decodeAt, decodeHost, hf]

/-- A word that decodes starts with an opcode and holds its operands. -/
theorem decodeAt_host_ok {w : List Byte} {i : Instr} (h : decodeAt .host w = .ok i) :
    ∃ opc rest f, w = opc :: rest ∧ opcodeFormat opc = some f ∧ readOperands opc f rest = .ok i := by
  rcases w with _ | ⟨opc, rest⟩
  · cases h
  cases hf : opcodeFormat opc with
  | none => simp [decodeAt, decodeHost, hf] at h
  | some f => exact ⟨opc, rest, f, rfl, hf, decodeAt_host_cons hf ▸ h⟩

/-- A host word that decodes is the encoding of its instruction (R91 to R98). -/
theorem encode_of_decodeAt_host {w : List Byte} {i : Instr} (h : decodeAt .host w = .ok i) :
    encode i = w ∧ i.encodable = true := by
  obtain ⟨opc, rest, f, rfl, hf, hr⟩ := decodeAt_host_ok h
  have hopc := hasOpcode_of_opcodeFormat hf
  have hi := readOperands_ok hr
  cases f with
  | h0 j =>
    obtain ⟨rfl, rfl⟩ := hi
    obtain ⟨hword, hfits, -⟩ := hopc
    exact ⟨hword, hfits⟩
  | hc =>
    obtain ⟨d, rfl, hd, rfl⟩ := hi
    exact ⟨by cases hopc; rfl, hd⟩
  | hx =>
    obtain ⟨a, c, rfl, hc, rfl⟩ := hi
    exact ⟨by cases hopc; rfl, hc⟩
  | hd3 =>
    obtain ⟨m, dl, dh, e, p, rfl, hp, rfl⟩ := hi
    exact ⟨by cases hopc; simp [encode, divisorOf_bytes, Opcode.dec3], hp⟩
  | hd4 =>
    obtain ⟨p, rfl, hp, rfl⟩ := hi
    exact ⟨by cases hopc; rfl, hp⟩
  | hw =>
    obtain ⟨c0, c1, rfl, rfl⟩ := hi
    exact ⟨by cases hopc; rfl, rfl⟩

/-- The operands of a word can be read exactly when the word has the length of its format (R99, R100 (c)). -/
theorem exists_readOperands_iff {opc : Byte} {rest : List Byte} {f : Format} (hf : opcodeFormat opc = some f) :
    (∃ i, readOperands opc f rest = .ok i) ↔ wordLength (opc :: rest) = some (opc :: rest).length := by
  have counted {d : List Byte} {n : Byte} {i : Instr} :
      (∃ j, (if d.length = n.toNat then Except.ok i else Except.error (DecodeError.badLength opc)) = .ok j) ↔
        n.toNat = d.length := by
    split <;> simp_all [eq_comm]
  cases f with
  | h0 j => rcases rest with _ | ⟨n, d⟩ <;> simp [wordLength, hf, readOperands]
  | hc =>
    rcases rest with _ | ⟨n, d⟩
    · simp [wordLength, hf, readOperands]
    · simp [wordLength, hf, readOperands, counted]
      omega
  | hd4 =>
    rcases rest with _ | ⟨n, d⟩
    · simp [wordLength, hf, readOperands]
    · simp [wordLength, hf, readOperands, counted]
      omega
  | hx =>
    rcases rest with _ | ⟨a, _ | ⟨n, d⟩⟩
    · simp [wordLength, hf, readOperands]
    · simp [wordLength, hf, readOperands]
    · simp [wordLength, hf, readOperands, counted]
      omega
  | hd3 =>
    rcases rest with _ | ⟨m, _ | ⟨dl, _ | ⟨dh, _ | ⟨e, _ | ⟨n, d⟩⟩⟩⟩⟩
    iterate 5 simp [wordLength, hf, readOperands]
    simp [wordLength, hf, readOperands, counted]
    omega
  | hw => rcases rest with _ | ⟨a, _ | ⟨b, _ | ⟨x, d⟩⟩⟩ <;> simp [wordLength, hf, readOperands]

/-- The host words that decode are those with the length of their format (R99). -/
theorem exists_decodeAt_host_iff (w : List Byte) : (∃ i, decodeAt .host w = .ok i) ↔ wordLength w = some w.length := by
  rcases w with _ | ⟨opc, rest⟩
  · simp [decodeAt, decodeHost, wordLength]
  cases hf : opcodeFormat opc with
  | none => simp [decodeAt, decodeHost, wordLength, hf]
  | some f => exact decodeAt_host_cons hf ▸ exists_readOperands_iff hf

/-- The same, in the form of a check. -/
theorem isOk_decodeAt_host_iff (w : List Byte) : (decodeAt .host w).isOk = true ↔ wordLength w = some w.length := by
  rw [← exists_decodeAt_host_iff]
  cases decodeAt .host w <;> simp [Except.isOk, Except.toBool]

/-- A length found from a length byte, as R99 finds it and as R100 (c) checks it. -/
theorem length_of_counted (w : List Byte) (k a : Nat) :
    w[k]?.map (fun n => a + n.toNat) = some w.length ↔ k + 1 ≤ w.length ∧ w.length = a + (w.getD k 0).toNat := by
  by_cases hk : k < w.length
  · simp [hk, eq_comm]
  · simp [hk]

/-- The words that (a) to (c) of R100 leave are those with the length of their format. -/
theorem wordLength_eq_length_iff (w : List Byte) :
    wordLength w = some w.length ↔ w ≠ [] ∧ w.headD 0 ∈ opcodes ∧ lengthIsRight w := by
  rcases w with _ | ⟨opc, rest⟩
  · simp [wordLength]
  cases hf : opcodeFormat opc with
  | none =>
    have hn : opc ∉ opcodes := by simp [← exists_opcodeFormat_iff, hf]
    simp [wordLength, hf, hn]
  | some f =>
    have hopc : opc ∈ opcodes := (exists_opcodeFormat_iff opc).mp ⟨f, hf⟩
    have hop := hasOpcode_of_opcodeFormat hf
    simp only [List.headD_cons, hopc, true_and, ne_eq, reduceCtorEq, not_false_eq_true]
    cases f with
    | h0 i =>
      obtain ⟨-, -, hop⟩ := hop
      have apart {b : Byte} (hb : b.toNat < 0x10) : opc ≠ b := by rintro rfl; omega
      simp [wordLength, hf, lengthIsRight, hop, apart]
    | hc | hd4 | hx | hd3 | hw =>
      simp only [wordLength, List.head?_cons, Option.bind_some, hf, length_of_counted]
      simp only [HasOpcode] at hop
      simp [lengthIsRight, hop, eq_comm]

/-! ### The words of R100 -/

/-- Reserved bits of `C0` are set (R100 (d)). -/
theorem legalConfig_eq_false_iff (c0 : Byte) : legalConfig c0 = false ↔ c0.toNat / 2 ≠ 0 := by
  simp [legalConfig, ← BitVec.toNat_inj, Nat.shiftRight_eq_div_pow]

/-- Both bytes of the divisor are 0 (R100 (e)). -/
theorem legalDivisor_eq_false_iff (div : Half) : legalDivisor div = false ↔ divisorLow div = 0 ∧ divisorHigh div = 0 := by
  rw [legalDivisor, bne_eq_false_iff_eq]
  constructor
  · rintro rfl
    exact ⟨rfl, rfl⟩
  · rintro ⟨h₀, h₁⟩
    rw [← divisorOf_split div, h₀, h₁]
    rfl

/-- Among the host words with the length of their format, (d) and (e) of R100 are the illegal operands. -/
theorem illegalWord_encode_iff {i : Instr} (hl : i.level = .host) (he : i.encodable = true) :
    IllegalWord (encode i) ↔ i.legalOperands = false := by
  obtain ⟨-, -, -, hlen⟩ := Laws.EncodedLength.statement_holds i he
  obtain ⟨hne, hop, hr⟩ := (wordLength_eq_length_iff _).mp (hlen hl)
  simp only [IllegalWord, hne, hop, hr, not_true_eq_false, false_or]
  cases i with
  | wcfg c0 c1 =>
    simp [encode, Opcode.wcfg, Instr.legalOperands, legalConfig_eq_false_iff]
  | dec3 m div e p =>
    simp [encode, Opcode.dec3, Instr.legalOperands, legalDivisor_eq_false_iff]
  | crc16 d | xact a c | dec4 p =>
    simp [encode, Opcode.crc16, Opcode.xact, Opcode.dec4, Instr.legalOperands]
  | openSession | closeSession | getVolt | getCurr | getPreal | getPreact | getPapp | getPf | getEnergy => decide
  | wireVolt | wireCurr | wirePreal | wirePreact | wirePapp | wirePf | wireEnergy | wireOpen | wireClose => cases hl

/-- A word that (a) to (c) of R100 leave decodes. -/
theorem exists_decodeAt_of_legal {w : List Byte} (h : ¬ IllegalWord w) : ∃ i, decodeAt .host w = .ok i := by
  simp only [IllegalWord, not_or, not_not] at h
  obtain ⟨hne, hop, hlen, -⟩ := h
  exact (exists_decodeAt_host_iff w).mpr ((wordLength_eq_length_iff w).mpr ⟨hne, hop, hlen⟩)

/-- Operands that R100 (d) and (e) call illegal end the operation with `ILLEGAL_OP` (R212, R240). -/
theorem exec_of_illegalOperands {i : Instr} (h : i.legalOperands = false) (s : State) :
    exec i s = .next (State.raise .illegalOp ((encode i).headD 0) s) := by
  cases i with
  | wcfg c0 c1 | dec3 m div e p => exact if_neg (Bool.eq_false_iff.mp h)
  | _ => cases h

/-- The accept step of an illegal word (R100, R277): where the decoder reads it, its operands are illegal. -/
theorem accept_of_illegalWord {w : List Byte} (h : IllegalWord w) (s : State) :
    accept w s = .next (State.raise .illegalOp (w.headD 0) s) := by
  unfold accept
  split
  · next i hi =>
    obtain ⟨rfl, he⟩ := encode_of_decodeAt_host hi
    exact exec_of_illegalOperands ((illegalWord_encode_iff (decodeAt_host_level hi) he).mp h) s
  · rfl

/-! ### The obligations -/

/-- Settles O3: a word that decodes is the encoding of its instruction, whose length its format gives. -/
theorem wordLengthsFollowTheFormats : Obligations.WordLengthsFollowTheFormats := by
  have decodes {i : Instr} (hl : i.level = .host) (he : i.encodable = true) : (decodeAt .host (encode i)).isOk = true := by
    obtain ⟨-, -, -, hword⟩ := Laws.EncodedLength.statement_holds i he
    exact (isOk_decodeAt_host_iff _).mpr (hword hl)
  obtain ⟨longest, h255⟩ : ∃ p : List Byte, p.length = 255 := ⟨List.replicate 255 0, List.length_replicate⟩
  refine ⟨fun w i h => ?_, fun w => (isOk_decodeAt_host_iff w).mp, ⟨encode (.dec3 0 1 0 longest), decodes rfl ?_, ?_⟩,
    ⟨encode .openSession, decodes rfl rfl, rfl⟩⟩
  · obtain ⟨rfl, he⟩ := encode_of_decodeAt_host h
    obtain ⟨hlen, hmin, hmax, hword⟩ := Laws.EncodedLength.statement_holds i he
    refine ⟨hword (decodeAt_host_level h), hmin, hmax, ?_, ?_, ?_, ?_, ?_, ?_⟩
    · rintro d rfl
      exact hlen.trans (congrArg (2 + ·) (lengthByte_toNat he).1.symm)
    · rintro p rfl
      exact hlen.trans (congrArg (2 + ·) (lengthByte_toNat he).1.symm)
    · rintro a c rfl
      exact hlen.trans (congrArg (3 + ·) (lengthByte_toNat he).1.symm)
    · rintro m div e p rfl
      exact hlen.trans (congrArg (6 + ·) (lengthByte_toNat he).1.symm)
    · rintro c0 c1 rfl
      rfl
    · rintro (rfl | rfl | hf)
      · rfl
      · rfl
      · cases i with
        | getVolt | getCurr | getPreal | getPreact | getPapp | getPf | getEnergy => rfl
        | _ => cases hf
  · simp [Instr.encodable, countable, h255]
  · simp [encode, h255]

/-- Settles O5: by the accept step of an illegal word, in which the engine only raises the error. -/
theorem illegalWordsCompleteWithIllegalOp : Obligations.IllegalWordsCompleteWithIllegalOp := by
  intro s w rest hb hh hw
  refine ⟨State.raise .illegalOp (w.headD 0) (s.withHost rest), ?_, raise_completed .illegalOp .., raise_keeps .illegalOp .., rfl⟩
  rw [step_accept hb hh, accept_of_illegalWord hw]

/-- Settles O6: a legal word decodes, and the word of an instruction is illegal exactly by its operands. -/
theorem legalWordsAreTheWellFormedInstructions : Obligations.LegalWordsAreTheWellFormedInstructions := by
  intro w
  constructor
  · intro h
    obtain ⟨i, hi⟩ := exists_decodeAt_of_legal h
    obtain ⟨rfl, he⟩ := encode_of_decodeAt_host hi
    have hl := decodeAt_host_level hi
    rw [illegalWord_encode_iff hl he, Bool.not_eq_false] at h
    exact ⟨i, hl, by simp [Instr.wellFormed, he, h], rfl⟩
  · rintro ⟨i, hl, hw, rfl⟩
    obtain ⟨he, hlegal⟩ : i.encodable = true ∧ i.legalOperands = true := by simpa [Instr.wellFormed] using hw
    simp [illegalWord_encode_iff hl he, hlegal]

end Sys2Proof.Machine

/-! PROOF. The framer's length check (R151): what `XACT` answers on each side of it. -/

namespace Sys2Proof.Machine

/-- The frame of an empty command is the address and the checksum of the address alone (R102, R150). -/
theorem requestFrame_nil (a : Byte) :
    requestFrame a [] = [a, (crc16Out [a]).extractLsb' 8 8, (crc16Out [a]).extractLsb' 0 8] := rfl

/-- The accept step of `XACT` is `StartXact` with continuation `RAW` (R180). -/
theorem exec_xact (a : Byte) (c : List Byte) (s : State) : exec (.xact a c) s = startXact a c .raw s := rfl

/-- The state in which a command that is too long completes (R151, R181, R276). -/
def rejected (k : Cont) (s : State) : State :=
  State.raise .invalidCommand k.opcode { s.clearTransaction with txlen := 0 }

/-- A rejected command leaves `LERR` 0, by what `StartXact` clears first (R181). -/
theorem rejected_lerr (k : Cont) (s : State) : Status.lerr (rejected k s).status = 0 := by
  simp [rejected, State.raise, lerrNone]

/-- A rejected command keeps `SESS`, `CLF` and the reserved bits. -/
theorem rejected_keeps (k : Cont) (s : State) :
    Status.sess (rejected k s).status = Status.sess s.status ∧ Status.clf (rejected k s).status = Status.clf s.status ∧
    Status.reserved (rejected k s).status = Status.reserved s.status := by
  simp [rejected, State.raise]

/-- A rejected command writes the completion and the registers that `StartXact` zeroes, nothing else. -/
theorem rejected_frame (k : Cont) (s : State) :
    rejected k s = { s with
      status := (rejected k s).status, lop := k.opcode, seq := .idle, txlen := 0, rxlen := 0, att := 0 } := rfl

/-- Settles O18: by `StartXact` on both sides of the length check. -/
theorem tooLongCommandIsInvalid : Obligations.TooLongCommandIsInvalid := by
  constructor
  · intro a s
    have h : ([] : List Byte).length ≤ Config.cmdMax := Nat.zero_le _
    exact ⟨started a [] .raw s, (exec_xact ..).trans (startXact_fits a [] .raw s h),
      (started_frame a [] .raw s h).trans (congrArg some (requestFrame_nil a)), rfl, rfl⟩
  · intro a c s h
    obtain ⟨hsess, hclf, hres⟩ := rejected_keeps .raw s
    exact ⟨rejected .raw s, (exec_xact ..).trans (startXact_tooLong a c .raw s h), raise_completed .invalidCommand ..,
      rfl, rfl, rfl, rejected_lerr .raw s, hsess, hclf, hres, rejected_frame .raw s⟩

end Sys2Proof.Machine

/-! PROOF. The attempts of a transaction (R182 to R187): what an attempt sends, what a failed one leaves behind, and how the last one ends
the transaction. -/

namespace Sys2Proof.Machine

/-! ### An attempt is sent -/

/-- Settles O20: the engine's step in `SEND` sends the frame, whatever command it carries. -/
theorem sendStepWritesTheWholeFrame : Obligations.SendStepWritesTheWholeFrame := by
  intro s f hq hh hf
  have hsend : engineStep s = sendStep s := by simp only [engineStep, hq]
  rw [step_engine hh, hsend, sendStep_frame hf]
  rfl

/-! ### An attempt fails -/

/-- The state after an attempt whose response `r` failed a check: the response and the check's code are stored (R183, R184). -/
def failedAttempt (v : ValidationError) (r : List Byte) (s : State) : State :=
  { stored r s with status := Status.setLerr s.status v.code }

@[simp] theorem failedAttempt_lerr (v : ValidationError) (r : List Byte) (s : State) :
    Status.lerr (failedAttempt v r s).status = v.code := Status.lerr_setLerr ..
@[simp] theorem failedAttempt_sess (v : ValidationError) (r : List Byte) (s : State) :
    Status.sess (failedAttempt v r s).status = Status.sess s.status := Status.sess_setLerr ..
@[simp] theorem failedAttempt_clf (v : ValidationError) (r : List Byte) (s : State) :
    Status.clf (failedAttempt v r s).status = Status.clf s.status := Status.clf_setLerr ..
@[simp] theorem failedAttempt_reserved (v : ValidationError) (r : List Byte) (s : State) :
    Status.reserved (failedAttempt v r s).status = Status.reserved s.status := Status.reserved_setLerr ..

/-- A response that fails a check ends the transaction after the last attempt, and leads to `BACKOFF` before it (R183, R184). -/
theorem step_failedAttempt {s : State} {r : List Byte} {rest : List (List Byte)} {a : Byte} {v : ValidationError}
    (hq : s.seq = .recv) (hh : s.world.host = []) (hw : s.world.answers = r :: rest) (hr : r.length ≤ Config.rdMax)
    (ha : Memory.read s.txbuf 0 = some a) (hv : validate r a s.ics = some v) :
    step s = .next (if s.att.toNat = Config.maxAttempts then finishFail (failedAttempt v r (s.takeAnswer r rest))
      else { failedAttempt v r (s.takeAnswer r rest) with seq := .backoff }) := by
  have hrecv : engineStep s = recvStep s := by simp only [engineStep, hq]
  rw [step_engine hh, hrecv, recvStep_answer hw hr ha, hv]
  rfl

/-- Storing a response leaves the bytes past it as they were (R35). -/
theorem stored_read_past {r : List Byte} {j : Nat} (s : State) (hj : r.length ≤ j) :
    Memory.read (stored r s).rxbuf j = Memory.read s.rxbuf j := by
  have hpast : ¬ (0 ≤ j ∧ j < 0 + r.length) := by omega
  exact (Memory.read_putAll ..).trans (if_neg hpast)

/-! ### The end after the last attempt -/

/-- `FinishFail` keeps every register but `STATUS`, `LOP` and `STATE` (R187). -/
theorem finishFail_eq (s : State) :
    finishFail s = { s with status := (finishFail s).status, lop := (finishFail s).lop, seq := .idle } := by
  obtain ⟨st, o, hf, -⟩ := finishFail_frame s
  rw [hf]

@[simp] theorem finishFail_rxbuf (s : State) : (finishFail s).rxbuf = s.rxbuf := by rw [finishFail_eq]

@[simp] theorem finishFail_rxlen (s : State) : (finishFail s).rxlen = s.rxlen := by rw [finishFail_eq]

/-- Of `SESS` and `CLF`, `FinishFail` writes those of its continuation (R241, R242). -/
theorem finishFail_session (s : State) : SessionWrittenBy s.cont s.status (finishFail s).status := by
  obtain ⟨st, o, hf, hs⟩ := finishFail_frame s
  rw [hf]
  exact hs

theorem finishFail_sess_kept {s : State} (ho : s.cont ≠ .opening) (hc : s.cont ≠ .closing) :
    Status.sess (finishFail s).status = Status.sess s.status :=
  not_imp_comm.mp (finishFail_session s).sess (not_or.mpr ⟨ho, hc⟩)

theorem finishFail_clf_kept {s : State} (hc : s.cont ≠ .closing) :
    Status.clf (finishFail s).status = Status.clf s.status :=
  not_imp_comm.mp (finishFail_session s).clf hc

/-- `FinishFail` completes with `TRANSACTION_ERROR`, but for `CLOSE`, which ends without an error (R187, R242, R274). -/
theorem finishFail_completed (s : State) : Completed (finishFail s) s.cont.opcode (if s.cont = .closing then 0 else 3) := by
  cases hk : s.cont <;> simp only [finishFail, hk]
  case closing => exact completeOk_completed ..
  case raw | opening | get => exact raise_completed .transactionError ..

/-- A failed `OPEN` leaves `SESS` 0 (R241). -/
theorem finishFail_opening {s : State} (hk : s.cont = .opening) : Status.sess (finishFail s).status = false := by
  simp [finishFail, hk, openFailure]

/-- A failed `CLOSE` leaves `SESS` 0 and `CLF` 1 (R242). -/
theorem finishFail_closing {s : State} (hk : s.cont = .closing) :
    Status.sess (finishFail s).status = false ∧ Status.clf (finishFail s).status = true := by
  simp [finishFail, hk, closeFailure]

/-- `FinishFail` keeps the last check's code and the reserved bits (R187). -/
theorem finishFail_keeps (s : State) :
    Status.lerr (finishFail s).status = Status.lerr s.status ∧ Status.reserved (finishFail s).status = Status.reserved s.status := by
  cases hk : s.cont <;> simp [finishFail, hk, openFailure, closeFailure]

/-- Settles O23: the step is `FinishFail` on the failed attempt, whose response, code and request it keeps. -/
theorem sixteenthFailureEndsTheTransaction : Obligations.SixteenthFailureEndsTheTransaction := by
  intro s r rest a v hq hh hw hr ha hv hatt
  let u := failedAttempt v r (s.takeAnswer r rest)
  have hlast : s.att.toNat = Config.maxAttempts := congrArg BitVec.toNat hatt
  have hstep : step s = .next (finishFail u) := by rw [step_failedAttempt hq hh hw hr ha hv, if_pos hlast]
  have completed {k : Cont} (hk : s.cont = k) : Completed (finishFail u) k.opcode (if k = .closing then 0 else 3) :=
    hk ▸ finishFail_completed u
  have sess_kept (ho : s.cont ≠ .opening) (hc : s.cont ≠ .closing) : Status.sess (finishFail u).status = Status.sess s.status :=
    (finishFail_sess_kept (s := u) ho hc).trans (failedAttempt_sess v r _)
  obtain ⟨hlerr, hres⟩ := finishFail_keeps u
  refine ⟨finishFail u, hstep, ?response, ?length, ?past, ?code, ?raw, ?opening, ?closing, ?get, ?clf, ?reserved, ?frame⟩
  case response =>
    rw [State.response, finishFail_rxbuf, finishFail_rxlen]
    exact stored_response r _ hr
  case length =>
    rw [finishFail_rxlen]
    exact toNat_length r.length hr
  case past =>
    intro j hj
    rw [finishFail_rxbuf]
    exact stored_read_past _ hj
  case code => exact hlerr.trans (failedAttempt_lerr v r _)
  case raw => exact fun hk => ⟨completed hk, sess_kept (by simp [hk]) (by simp [hk])⟩
  case opening => exact fun hk => ⟨completed hk, finishFail_opening hk⟩
  case closing => exact fun hk => ⟨completed hk, finishFail_closing hk⟩
  case get => exact fun f hk => ⟨completed hk, sess_kept (by simp [hk]) (by simp [hk])⟩
  case clf => exact fun hc => (finishFail_clf_kept (s := u) hc).trans (failedAttempt_clf v r _)
  case reserved => exact hres.trans (failedAttempt_reserved v r _)
  case frame =>
    rw [finishFail_eq u]
    rfl

end Sys2Proof.Machine

/-! PROOF. What the two decodes put in a slot (R211 to R216), and when a slot reads 0. -/

namespace Sys2Proof.Machine

/-! ### The slots after a decode -/

/-- `DEC3` with a legal divisor and a payload of the expected length writes `Decode3`'s value to every slot (R212). -/
theorem exec_dec3_slot {p : List Byte} {div : Half} {e : Byte} (m : Byte) (s : State) (hdiv : div ≠ 0)
    (hp : p.length = e.toNat) :
    ∃ t, exec (.dec3 m div e p) s = .next t ∧ ∀ i : Fin 4, t.slot i = value3 p m s.draws i := by
  have hexec : exec (.dec3 m div e p) s = .next (completeDecode Opcode.dec3 s (decode3 p m div e s)) :=
    if_pos (bne_iff_ne.mpr hdiv)
  rcases decode3_cases p m div e s with ⟨-, hd⟩ | ⟨hn, -⟩
  · rw [hexec, hd]
    refine ⟨_, rfl, fun i => ?_⟩
    fin_cases i <;> rfl
  · exact absurd hp hn

/-- `DEC4` with 16 bytes writes `Decode4`'s value to every slot and flags none (R215). -/
theorem exec_dec4_slot {p : List Byte} (s : State) (hp : p.length = 16) :
    ∃ t, exec (.dec4 p) s = .next t ∧ t.dd = 0 ∧ ∀ i : Fin 4, t.slot i = slot4 p i := by
  have hexec : exec (.dec4 p) s = .next (completeDecode Opcode.dec4 s (decode4 p s)) := rfl
  rcases decode4_cases p s with ⟨-, hd⟩ | ⟨hn, -⟩
  · rw [hexec, hd]
    refine ⟨_, rfl, rfl, fun i => ?_⟩
    fin_cases i <;> rfl
  · exact absurd hp hn

/-- A slot inside the payload takes its assembled register, not a draw (R211, R212). -/
theorem value3_inside {p : List Byte} {i : Nat} (m : Byte) (draws : Nat) (h : 3 * i + 2 < p.length) :
    value3 p m draws i = asm3 m (p.getD (3 * i) 0) (p.getD (3 * i + 1) 0) (p.getD (3 * i + 2) 0) := by
  rw [value3, slot3_inside p m i h, Option.getD_some]

/-! ### The assemblies at 0 and at the sentinel -/

theorem asm3_eq_zero_iff (m d0 d1 d2 : Byte) : asm3 m d0 d1 d2 = 0 ↔ d0 &&& m = 0 ∧ d1 = 0 ∧ d2 = 0 := by
  simp only [← BitVec.toNat_inj, asm3_toNat, BitVec.ofNat_eq_ofNat, BitVec.toNat_ofNat, Nat.zero_mod]
  omega

theorem asm4_eq_zero_iff (d0 d1 d2 d3 : Byte) : asm4 d0 d1 d2 d3 = 0 ↔ [d0, d1, d2, d3] = List.replicate 4 0x00 := by
  simp only [List.replicate, List.cons.injEq, and_true, ← BitVec.toNat_inj, asm4_toNat, BitVec.ofNat_eq_ofNat,
    BitVec.toNat_ofNat, Nat.zero_mod]
  omega

/-- Only four bytes of 0xFF assemble to the sentinel (R216). -/
theorem asm4_eq_sentinel_iff (d0 d1 d2 d3 : Byte) :
    asm4 d0 d1 d2 d3 = Config.sentinel ↔ [d0, d1, d2, d3] = List.replicate 4 0xFF := by
  have h0 := d0.isLt
  have h1 := d1.isLt
  have h2 := d2.isLt
  have h3 := d3.isLt
  simp only [List.replicate, List.cons.injEq, and_true, ← BitVec.toNat_inj, asm4_toNat, Config.sentinel, BitVec.ofNat_eq_ofNat,
    BitVec.toNat_ofNat]
  omega

theorem normalise_eq_zero_iff (v : Word) : normalise v = 0 ↔ v = 0 ∨ v = Config.sentinel := by
  unfold normalise
  split <;> simp [*]

theorem normalise_ne_sentinel (v : Word) : normalise v ≠ Config.sentinel := by
  unfold normalise
  split
  · decide
  · assumption

/-- The four bytes of a slot inside the payload, as its assembly reads them. -/
theorem take_four_drop {p : List Byte} {k : Nat} (h : k + 4 ≤ p.length) :
    (p.drop k).take 4 = [p.getD k 0, p.getD (k + 1) 0, p.getD (k + 2) 0, p.getD (k + 3) 0] := by
  have h0 : k < p.length := by omega
  have h1 : k + 1 < p.length := by omega
  have h2 : k + 2 < p.length := by omega
  have h3 : k + 3 < p.length := by omega
  rw [List.drop_eq_getElem_cons h0, List.drop_eq_getElem_cons h1, List.drop_eq_getElem_cons h2, List.drop_eq_getElem_cons h3]
  simp only [List.take_succ_cons, List.take_zero, List.getD_eq_getElem, h0, h1, h2, h3]

/-- A 4-byte slot reads 0 for 0 and for "not available" alike (R216). -/
theorem slot4_eq_zero_iff {p : List Byte} {i : Nat} (h : 4 * i + 4 ≤ p.length) :
    slot4 p i = 0 ↔ (p.drop (4 * i)).take 4 = List.replicate 4 0x00 ∨ (p.drop (4 * i)).take 4 = List.replicate 4 0xFF := by
  rw [take_four_drop h, slot4, normalise_eq_zero_iff, asm4_eq_zero_iff, asm4_eq_sentinel_iff]

/-- Settles O34: by the assemblies that are 0 or the sentinel, and what each decode puts in a slot. -/
theorem sentinelReadsAsZero : Obligations.SentinelReadsAsZero := by
  refine ⟨fun p s t hp ht i => ?fourByte, fun m div e p s hdiv hp => ?threeByte, fun div s hdiv => ?allOnes⟩
  case fourByte =>
    obtain ⟨u, hu, hdd, hslot⟩ := exec_dec4_slot s hp
    cases hu.symm.trans ht
    have hin : 4 * i.val + 4 ≤ p.length := by omega
    rw [hslot]
    exact ⟨slot4_eq_zero_iff hin, normalise_ne_sentinel _, hdd⟩
  case threeByte =>
    obtain ⟨t, ht, hslot⟩ := exec_dec3_slot m s hdiv hp
    refine ⟨t, ht, fun i hin => ?_⟩
    rw [hslot, value3_inside m s.draws hin]
    exact asm3_eq_zero_iff ..
  case allOnes =>
    obtain ⟨t, ht, hslot⟩ := exec_dec3_slot (p := [0xFF, 0xFF, 0xFF]) (e := 3) 0xFF s hdiv rfl
    have hval : t.val0 = value3 [0xFF, 0xFF, 0xFF] 0xFF s.draws 0 := hslot 0
    refine ⟨t, ht, ?_⟩
    rw [hval, value3_inside 0xFF s.draws (by decide)]
    decide

end Sys2Proof.Machine

/-! PROOF. The seven measurements by family (R106, R243): what `GET.*` is, and what it answers without a session (R251). -/

namespace Sys2Proof.Machine

/-- The `GET.*` operations are those of the seven families (R106). -/
theorem familyOf_eq_some_iff {i : Instr} {f : Family} : familyOf i = some f ↔ i = getInstr f := by
  constructor
  · intro h
    cases i <;> cases h <;> rfl
  · rintro rfl
    cases f <;> rfl

/-- A measurement is encoded by its opcode alone (R92). -/
theorem encode_getInstr (f : Family) : encode (getInstr f) = [Opcode.get f] := by cases f <;> rfl

/-- The accept step of every measurement is `GetFamily` of its family (R243 to R250). -/
theorem exec_getInstr (f : Family) (s : State) : exec (getInstr f) s = getFamily f s := by cases f <;> rfl

/-- `GetFamily` only raises `SESSION_CLOSED` without a session (R251). -/
theorem getFamily_sessionClosed {s : State} (f : Family) (h : Status.sess s.status = false) :
    getFamily f s = .next (State.raise .sessionClosed (Opcode.get f) s) :=
  if_neg (Bool.eq_false_iff.mp h)

/-- Settles O19: by the branch of `GetFamily` without a session, in which the engine only raises the error. -/
theorem measurementWithoutSessionIsRefused : Obligations.MeasurementWithoutSessionIsRefused := by
  intro i f s hf hs
  obtain rfl := familyOf_eq_some_iff.mp hf
  rw [encode_getInstr]
  exact ⟨State.raise .sessionClosed (Opcode.get f) s, (exec_getInstr f s).trans (getFamily_sessionClosed f hs),
    raise_completed .sessionClosed .., raise_keeps .sessionClosed .., rfl⟩

end Sys2Proof.Machine

/-! PROOF. Reset (R300 to R304): what the port reads where nothing is defined yet, and what a reset writes. -/

namespace Sys2Proof.Machine

/-- While idle with `RV = 0` no result register is defined (R44). -/
theorem readResult_of_rv_eq_false {s : State} (hb : s.busy = false) (hrv : Status.rv s.status = false) (r : ResultReg) (v : Word) :
    readResult s r v = .error .unspecifiedResult := by
  simp [readResult, hb, hrv]

/-- A buffer byte at or above the valid length is unspecified (R34, R35). -/
theorem readBuffer_of_length_le {len : Byte} {i : Nat} (h : len.toNat ≤ i) (m : Memory) :
    readBuffer m len i = .error .unspecifiedBufferByte :=
  if_neg (Nat.not_lt.mpr h)

/-- The indices 0x20..0x5F are those of the bytes of the two buffers (R22). -/
theorem exists_buffer_index {n : Byte} (hlo : 0x20 ≤ n.toNat) (hhi : n.toNat ≤ 0x5F) :
    ∃ i < 32, n = BitVec.ofNat 8 (0x20 + i) ∨ n = BitVec.ofNat 8 (0x40 + i) := by
  by_cases htx : n.toNat < 0x40
  · exact ⟨n.toNat - 0x20, by omega, .inl (by bv_omega)⟩
  · exact ⟨n.toNat - 0x40, by omega, .inr (by bv_omega)⟩

/-- In `IDLE` the engine waits with all state kept (R289, R301). -/
theorem engineStep_idle {s : State} (h : s.seq = .idle) : engineStep s = .next s := by
  simp [engineStep, h]

/-- Right after reset every result register is unspecified (R300). -/
theorem readReg_reset_result {n : Byte} (hn : n ∈ ([0x05, 0x06, 0x07, 0x08, 0x10, 0x11, 0x12, 0x13] : List Byte)) :
    readReg n State.reset = .error .unspecifiedResult := by
  obtain ⟨r, rfl⟩ := exists_index_of_mem hn
  obtain ⟨v, hv⟩ := readReg_index r State.reset
  rw [hv, readResult_of_rv_eq_false rfl rfl]

/-- Right after reset every buffer byte is unspecified (R300). -/
theorem readReg_reset_buffer {n : Byte} (hlo : 0x20 ≤ n.toNat) (hhi : n.toNat ≤ 0x5F) :
    readReg n State.reset = .error .unspecifiedBufferByte := by
  obtain ⟨i, hi, rfl | rfl⟩ := exists_buffer_index hlo hhi
  · rw [readReg_txbuf i hi, readBuffer_of_length_le (Nat.zero_le i)]
  · rw [readReg_rxbuf i hi, readBuffer_of_length_le (Nat.zero_le i)]

/-- Settles O39: the registers by their values in the reset state, the unspecified ones by the rules of the read port. -/
theorem resetLeavesTheResetState : Obligations.ResetLeavesTheResetState := by
  have hstep : step State.reset = .next State.reset := (step_engine rfl).trans (engineStep_idle rfl)
  exact ⟨rfl, rfl, rfl, rfl, rfl, rfl, rfl, rfl, rfl, fun _ => readReg_reset_result, fun _ => readReg_reset_buffer, hstep⟩

/-- Settles O40: the step is `applyReset`, which reads nothing of the state but the draw counter and the outside world. -/
theorem resetActsAtAnyStep : Obligations.ResetActsAtAnyStep := by
  intro s rest h
  exact ⟨applyReset (s.withHost rest), step_reset h, rfl, rfl, rfl, rfl, rfl, rfl, rfl, rfl, fun _ => rfl, fun _ => rfl⟩

end Sys2Proof.Machine


/-! PROOF. Host words and their instructions (R90 to R101, R106): the decoder reads back what the encoder writes, and the accept step runs
it. -/

namespace Sys2Proof.Machine

open Laws.EncodedLength (lengthByte_toNat)

/-- The decoder of host words reads back every encoding (R91 to R98): the opcode names the format and the length byte counts its list. -/
theorem decodeAt_host_encode {i : Instr} (hl : i.level = .host) (he : i.encodable = true) : decodeAt .host (encode i) = .ok i := by
  cases i with
  | crc16 d => exact (decodeAt_host_cons (f := .hc) rfl).trans (if_pos (lengthByte_toNat he).1.symm)
  | xact a c => exact (decodeAt_host_cons (f := .hx) rfl).trans (if_pos (lengthByte_toNat he).1.symm)
  | dec3 m div e p =>
    have hread : decodeAt .host (encode (.dec3 m div e p)) = .ok (.dec3 m (divisorOf (divisorLow div) (divisorHigh div)) e p) :=
      (decodeAt_host_cons (f := .hd3) rfl).trans (if_pos (lengthByte_toNat he).1.symm)
    rwa [divisorOf_split] at hread
  | dec4 p => exact (decodeAt_host_cons (f := .hd4) rfl).trans (if_pos (lengthByte_toNat he).1.symm)
  | wcfg c0 c1 => exact decodeAt_host_cons (f := .hw) rfl
  | openSession | closeSession | getVolt | getCurr | getPreal | getPreact | getPapp | getPf | getEnergy => rfl
  | wireVolt | wireCurr | wirePreal | wirePreact | wirePapp | wirePf | wireEnergy | wireOpen | wireClose => cases hl

/-- The decoder of wire commands reads back every command of the catalogue (R106). -/
theorem decodeAt_wire_encode {i : Instr} (hl : i.level = .wire) : decodeAt .wire (encode i) = .ok i := by
  simp only [decodeAt, decodeWire_encode i hl]

/-- Settles O1: by the round trip at each of the two levels. -/
theorem decodeEncodeRoundTrip : Obligations.DecodeEncodeRoundTrip := by
  intro i he
  cases hl : i.level with
  | host => exact decodeAt_host_encode hl he
  | wire => exact decodeAt_wire_encode hl

/-- Settles O2: by what reading a word can give. -/
theorem everyHostWordHasOneMeaning : Obligations.EveryHostWordHasOneMeaning := by
  intro w i h
  obtain ⟨hw, he⟩ := encode_of_decodeAt_host h
  exact ⟨hw, decodeAt_host_level h, he⟩

/-- Settles O4: each of the words is the encoding of its instruction, so that the round trip reads it. -/
theorem sampleWordsDecodeAsWritten : Obligations.SampleWordsDecodeAsWritten :=
  ⟨decodeEncodeRoundTrip (.crc16 [0x31, 0x32]) rfl, decodeEncodeRoundTrip (.xact 0x05 [0x08, 0x16, 0x11]) rfl,
    decodeEncodeRoundTrip (.dec3 0x3F 1000 0x0C [0x77]) rfl, decodeEncodeRoundTrip (.dec4 [0xFF]) rfl,
    decodeEncodeRoundTrip (.wcfg 0x01 0xFF) rfl, decodeEncodeRoundTrip .closeSession rfl, decodeEncodeRoundTrip .getPapp rfl,
    decodeEncodeRoundTrip .wirePf rfl⟩

/-- Settles O7: an idle engine accepts the word, and a word that decodes runs its operation. -/
theorem stepRunsTheDecodedWord : Obligations.StepRunsTheDecodedWord := by
  intro s w rest i hb hh hi
  rw [step_accept hb hh, accept, hi]

end Sys2Proof.Machine

/-! PROOF. The checksum (R130 to R134): the table form against the bitwise form, the residue, and what a flipped bit does to it. -/

namespace Sys2Proof.Machine

/-! ### The bitwise form -/

/-- A byte of the bitwise form is a byte of the table form (R130, R131). -/
theorem bitwiseByte_eq_crcUpdate : bitwiseByte = crcUpdate := by
  funext r b
  rw [crcUpdate_rounds]
  rfl

/-- Settles O10: the two forms take the same step on every byte. -/
theorem tableChecksumIsTheBitwiseChecksum : Obligations.TableChecksumIsTheBitwiseChecksum := by
  intro s
  rw [crc16Reg_fold, bitwiseCrc, bitwiseByte_eq_crcUpdate, Config.crcInit]

/-- The CRC bytes of a frame are the register's low byte, then its high byte (R132). -/
theorem crcBytes_eq_sentCrc (s : List Byte) : crcBytes s = sentCrc s := by
  obtain ⟨hhigh, hlow⟩ := (eq_append_iff (crc16Out s) _ _).mp rfl
  rw [crcBytes, sentCrc, ← hhigh, ← hlow, tableChecksumIsTheBitwiseChecksum s]

/-- The swapped register as a number (R10, R132). -/
theorem swap16_toNat (v : Half) : (swap16 v).toNat = v.toNat % 256 * 256 + v.toNat / 256 := by
  have hv := v.isLt
  have happend : (swap16 v).toNat = (v.toNat % 256) <<< 8 ||| v.toNat / 256 % 256 := by
    refine (BitVec.toNat_append ..).trans ?_
    rw [BitVec.extractLsb'_toNat, BitVec.extractLsb'_toNat, Nat.shiftRight_eq_div_pow, Nat.shiftRight_eq_div_pow, pow_zero, Nat.div_one]
  rw [happend, ← Nat.shiftLeft_add_eq_or_of_lt (by omega), Nat.shiftLeft_eq]
  omega

/-- Settles O11: `CRC16` is a completion with the swapped register in `CRCOUT`. -/
theorem crc16GivesTheSwappedChecksum : Obligations.Crc16GivesTheSwappedChecksum := by
  intro d s
  have hout : (crc16Out d).toNat = (bitwiseCrc d).toNat % 256 * 256 + (bitwiseCrc d).toNat / 256 := by
    rw [crc16Out, swap16_toNat, tableChecksumIsTheBitwiseChecksum d]
  exact ⟨State.completeOk Opcode.crc16 { s with crcout := crc16Out d }, rfl, hout, completeOk_completed .., completeOk_keeps .., rfl⟩

/-! ### No two registers and no two bytes take one step -/

/-- The polynomial's highest bit tells a round with the polynomial from one without: a round gives 0 for 0 alone. -/
theorem crcRound_eq_zero {c : Half} (h : crcRound c = 0) : c = 0 := by
  unfold crcRound at h
  split at h
  · have htop := congrArg (·.getLsbD 15) h
    simp [Config.crcPolyR] at htop
  · next hodd =>
    have hc := congrArg BitVec.toNat h
    have hlow : c.toNat % 2 = 0 := by simpa [BitVec.getLsbD, Nat.testBit_zero] using hodd
    simp only [BitVec.toNat_ushiftRight, Nat.shiftRight_eq_div_pow, BitVec.ofNat_eq_ofNat, BitVec.toNat_ofNat, Nat.zero_mod] at hc
    exact BitVec.eq_of_toNat_eq (by simp; omega)

theorem crcRounds_eq_zero (n : Nat) {c : Half} (h : Nat.repeat crcRound n c = 0) : c = 0 := by
  induction n with
  | zero => exact h
  | succ n ih => exact ih (crcRound_eq_zero h)

/-- No two registers give one after the same number of rounds. -/
theorem crcRounds_injective (n : Nat) : Function.Injective (Nat.repeat crcRound n) := by
  intro x y h
  have hxor : Nat.repeat crcRound n (x ^^^ y) = 0 := by
    rw [crcRounds_xor, h]
    exact BitVec.xor_self
  exact BitVec.xor_eq_zero_iff.mp (crcRounds_eq_zero n hxor)

/-- The step on a given byte is injective in the register. -/
theorem crcUpdate_injective_reg (b : Byte) : Function.Injective (crcUpdate · b) := by
  intro x y h
  simp only [crcUpdate_rounds] at h
  exact (BitVec.xor_left_inj _).mp (crcRounds_injective 8 h)

/-- The step on a given register is injective in the byte. -/
theorem crcUpdate_injective_byte (r : Half) : Function.Injective (crcUpdate r) := by
  intro b c h
  simp only [crcUpdate_rounds] at h
  have hwide : b.setWidth 16 = c.setWidth 16 := (BitVec.xor_right_inj _).mp (crcRounds_injective 8 h)
  simpa using congrArg (BitVec.setWidth 8) hwide

/-- The steps on given bytes are injective in the register. -/
theorem crcFold_injective (s : List Byte) : Function.Injective (s.foldl crcUpdate) := by
  induction s with
  | nil => exact Function.injective_id
  | cons b bs ih => exact ih.comp (crcUpdate_injective_reg b)

/-- A sequence with one byte replaced keeps its register only if the byte was the same. -/
theorem crc16Reg_set_ne {f : List Byte} {k : Nat} {b : Byte} (hk : k < f.length) (hb : b ≠ f[k]) :
    crc16Reg (f.set k b) ≠ crc16Reg f := by
  intro h
  have hsplit : f = f.take k ++ f[k] :: f.drop (k + 1) := by simp
  rw [List.set_eq_take_append_cons_drop, if_pos hk] at h
  conv at h => rhs; rw [hsplit]
  simp only [crc16Reg_fold, List.foldl_append, List.foldl_cons] at h
  exact hb (crcUpdate_injective_byte _ (crcFold_injective _ h))

/-- A byte with one bit flipped is another byte. -/
theorem flipped_ne (b : Byte) {j : Nat} (hj : j < 8) : b ^^^ BitVec.ofNat 8 (2 ^ j) ≠ b := by
  intro h
  have hzero : BitVec.ofNat 8 (2 ^ j) = 0 := by simpa using h
  interval_cases j <;> cases hzero

/-- Settles O13: a replaced byte gives another register, whatever comes before and after it. -/
theorem singleBitErrorsAreDetected : Obligations.SingleBitErrorsAreDetected := by
  intro f k j hk hj h0
  have hget : f.getD k 0 = f[k] := by simp [hk]
  rw [hget, ← h0]
  exact crc16Reg_set_ne hk (flipped_ne _ hj)

/-! ### The residue -/

/-- A byte leaves the residue 0 exactly where it is the register itself. -/
theorem crcUpdate_eq_zero_iff (r : Half) (y : Byte) : crcUpdate r y = 0 ↔ r = y.setWidth 16 := by
  have hzero : Nat.repeat crcRound 8 (0 : Half) = 0 := by decide
  calc crcUpdate r y = 0 ↔ r ^^^ y.setWidth 16 = 0 := by
        rw [crcUpdate_rounds]
        exact ⟨crcRounds_eq_zero 8, fun h => h ▸ hzero⟩
    _ ↔ r = y.setWidth 16 := BitVec.xor_eq_zero_iff

theorem crc16Reg_append_one_eq_zero_iff (p : List Byte) (y : Byte) : crc16Reg (p ++ [y]) = 0 ↔ crc16Reg p = y.setWidth 16 := by
  rw [crc16Reg_fold, List.foldl_append, ← crc16Reg_fold, List.foldl_cons, List.foldl_nil, crcUpdate_eq_zero_iff]

/-- Two more bytes leave the residue 0 exactly where they are the register's low byte and its high byte (R134 (b)). -/
theorem crcUpdate_twice_eq_zero_iff (r : Half) (x y : Byte) : crcUpdate (crcUpdate r x) y = 0 ↔ r = (y ++ x : Half) := by
  have hbytes : (y ++ x : Half) = (y ++ 0#8 : Half) ^^^ x.setWidth 16 := by
    apply BitVec.eq_of_getLsbD_eq
    intro i hi
    rw [BitVec.getLsbD_xor, append_getLsbD, append_getLsbD]
    by_cases h : i < 8
    · simp [h, hi]
    · simp [h, BitVec.getLsbD_of_ge x i (by omega)]
  have hhigh : Nat.repeat crcRound 8 (y ++ 0#8 : Half) = y.setWidth 16 := by
    rw [crcRounds_high 8 (by omega)]
    apply BitVec.eq_of_getLsbD_eq
    intro i hi
    rw [BitVec.getLsbD_ushiftRight, append_getLsbD]
    simp [hi]
  calc crcUpdate (crcUpdate r x) y = 0 ↔ crcUpdate r x = y.setWidth 16 := crcUpdate_eq_zero_iff ..
    _ ↔ Nat.repeat crcRound 8 (r ^^^ x.setWidth 16) = Nat.repeat crcRound 8 (y ++ 0#8 : Half) := by rw [crcUpdate_rounds, hhigh]
    _ ↔ r ^^^ x.setWidth 16 = (y ++ 0#8 : Half) := (crcRounds_injective 8).eq_iff
    _ ↔ r = (y ++ x : Half) := by
        rw [hbytes, ← BitVec.xor_left_inj (x.setWidth 16), BitVec.xor_assoc, BitVec.xor_self, BitVec.xor_zero]

/-- A sequence of two bytes or more leaves the residue 0 exactly where it ends in its own CRC bytes (R134 (b)). -/
theorem crc16Reg_append_eq_zero_iff (p : List Byte) (x y : Byte) : crc16Reg (p ++ [x, y]) = 0 ↔ [x, y] = crcBytes p := by
  rw [crc16Reg_fold, List.foldl_append, ← crc16Reg_fold, crcBytes_eq_sentCrc, sentCrc, ← tableChecksumIsTheBitwiseChecksum]
  simp only [List.foldl_cons, List.foldl_nil, crcUpdate_twice_eq_zero_iff, eq_append_iff, List.cons.injEq, and_true]
  exact and_comm

/-- Settles O12: the CRC bytes are those after which the residue is 0. -/
theorem checksumResidueIsZero : Obligations.ChecksumResidueIsZero :=
  ⟨rfl, fun s => (crc16Reg_append_eq_zero_iff s _ _).mpr rfl⟩

end Sys2Proof.Machine

/-! PROOF. Validation (R152 to R157): the checks with the residue of the whole response, and what an altered response reports. -/

namespace Sys2Proof.Machine

/-! ### The checks -/

/-- A list of two bytes or more is its trailing two bytes after the others. -/
theorem take_append_trailing {r : List Byte} (h : 2 ≤ r.length) :
    r.take (r.length - 2) ++ [r.getD (r.length - 2) 0, r.getD (r.length - 1) 0] = r := by
  have h2 : r.length - 2 < r.length := by omega
  have h1 : r.length - 2 + 1 < r.length := by omega
  have hdrop : r.drop (r.length - 2) = [r.getD (r.length - 2) 0, r.getD (r.length - 1) 0] := by
    rw [List.drop_eq_getElem_cons h2, List.drop_eq_getElem_cons h1, List.drop_eq_nil_of_le (by omega), List.getD_eq_getElem _ _ h2,
      List.getD_eq_getElem _ _ (by omega)]
    simp only [show r.length - 2 + 1 = r.length - 1 by omega]
  rw [← hdrop, List.take_append_drop]

/-- The trailing bytes of a response are its checksum exactly where its residue is 0 (R134 (b), R152). -/
theorem trailer_eq_iff {r : List Byte} (h : 2 ≤ r.length) : crc16Out (r.take (r.length - 2)) = trailer r ↔ crc16Reg r = 0 := by
  conv => rhs; rw [← take_append_trailing h]
  rw [crc16Reg_append_eq_zero_iff, trailer, eq_append_iff, crcBytes]
  simp only [List.cons.injEq, and_true]

/-- A response of two bytes or more ends in its checksum exactly where its residue is 0 (R134 (b)). -/
theorem exists_sentCrc_iff {r : List Byte} (h : 2 ≤ r.length) : (∃ p, r = p ++ sentCrc p) ↔ crc16Reg r = 0 := by
  simp only [← crcBytes_eq_sentCrc]
  constructor
  · rintro ⟨p, rfl⟩
    exact (crc16Reg_append_eq_zero_iff p _ _).mpr rfl
  · intro h0
    rw [← take_append_trailing h, crc16Reg_append_eq_zero_iff] at h0
    exact ⟨_, h0 ▸ (take_append_trailing h).symm⟩

/-- The low half of a status byte (R156). -/
theorem lowNibble_eq_zero_iff (b : Byte) : b &&& 0x0F = 0 ↔ b.toNat % 16 = 0 := by
  rw [← BitVec.toNat_inj, BitVec.toNat_and]
  exact Nat.and_two_pow_sub_one_eq_mod b.toNat 4 ▸ Iff.rfl

/-- The checks in their order, check (b) by the residue of the whole response (R152 to R156). -/
theorem validate_eq (r : List Byte) (a : Byte) (ics : Bool) :
    validate r a ics =
      if r.length < 4 then some .invalidResponse
      else if ics = false ∧ crc16Reg r ≠ 0 then some .badChecksum
      else if r.getD 0 0 ≠ a then some .badAddress
      else if r.length = 4 ∧ (r.getD 1 0).toNat % 16 ≠ 0 then some .deviceError
      else none := by
  unfold validate
  by_cases h : r.length < 4
  · simp [Config.rspMin, h]
  · have h2 : 2 ≤ r.length := by omega
    simp only [Config.rspMin, Config.statusOnlyLen, ne_eq, trailer_eq_iff h2, lowNibble_eq_zero_iff]

/-- A response validates exactly where it passes every check. -/
theorem validate_eq_none_iff (r : List Byte) (a : Byte) (ics : Bool) :
    validate r a ics = none ↔
      4 ≤ r.length ∧ (ics = false → crc16Reg r = 0) ∧ r.getD 0 0 = a ∧ (r.length = 4 → (r.getD 1 0).toNat % 16 = 0) := by
  rw [validate_eq]
  generalize r.getD 0 0 = address
  generalize r.getD 1 0 = status
  split_ifs <;> simp_all

/-- Settles O14: by the checks in their order, a response that ends in its checksum being one with residue 0. -/
theorem validationReportsTheFirstFailingCheck : Obligations.ValidationReportsTheFirstFailingCheck := by
  intro r a ics
  rw [validate_eq]
  by_cases h : r.length < 4
  · have h4 : ¬ 4 ≤ r.length := by omega
    simp [h, h4]
  · have h4 : 4 ≤ r.length := by omega
    simp only [exists_sentCrc_iff (show 2 ≤ r.length by omega), h, h4, if_false, true_and, iff_false]
    generalize r.getD 0 0 = address
    generalize r.getD 1 0 = status
    split_ifs <;> simp_all

/-! ### An altered response -/

/-- Settles O15: a flipped bit leaves a nonzero residue, and the bypass skips that check alone. -/
theorem addressBitErrorReportsBadChecksum : Obligations.AddressBitErrorReportsBadChecksum := by
  intro r a j hj hv
  obtain ⟨h4, hcrc, haddr, -⟩ := (validate_eq_none_iff r a false).mp hv
  have hshort : ¬ r.length < 4 := by omega
  have hflip : a ^^^ BitVec.ofNat 8 (2 ^ j) ≠ a := flipped_ne a hj
  have hres : crc16Reg (r.set 0 (a ^^^ BitVec.ofNat 8 (2 ^ j))) ≠ 0 := by
    have h := singleBitErrorsAreDetected r 0 j (by omega) hj (hcrc rfl)
    rwa [haddr] at h
  have hhead : (r.set 0 (a ^^^ BitVec.ofNat 8 (2 ^ j))).getD 0 0 = a ^^^ BitVec.ofNat 8 (2 ^ j) := by
    simp [show 0 < r.length by omega]
  constructor
  · simp only [validate_eq, List.length_set, hshort, if_false, hres, ne_eq, not_false_eq_true, and_self, if_true]
  · simp only [validate_eq, List.length_set, hshort, if_false, hhead, hflip, ne_eq, not_false_eq_true, if_true, reduceCtorEq, false_and]

/-- Within a good frame, the register before the last byte is that byte alone (R154). -/
theorem crc16Reg_before_last {f : List Byte} (hne : f ≠ []) (hf : crc16Reg f = 0) :
    (crc16Reg (f.take (f.length - 1))).extractLsb' 8 8 = 0 := by
  rw [← List.dropLast_append_getLast hne, crc16Reg_append_one_eq_zero_iff] at hf
  rw [← List.dropLast_eq_take, hf]
  apply BitVec.eq_of_getLsbD_eq
  intro i hi
  simp

/-- A good frame with more bytes after it passes exactly where the residue stays 0. -/
theorem validate_append_eq_none_iff {f t : List Byte} {a : Byte} (hf : validate f a false = none) (ht : t ≠ []) :
    validate (f ++ t) a false = none ↔ crc16Reg (f ++ t) = 0 := by
  obtain ⟨h4, -, haddr, -⟩ := (validate_eq_none_iff f a false).mp hf
  have hlen : 0 < t.length := List.length_pos_iff.mpr ht
  have hhead : (f ++ t).getD 0 0 = a := by
    rw [← haddr, List.getD_append _ _ _ _ (by omega)]
  have hlong : 4 ≤ (f ++ t).length ∧ (f ++ t).length ≠ 4 := by
    rw [List.length_append]
    omega
  rw [validate_eq_none_iff]
  exact ⟨fun ⟨_, hcrc, _⟩ => hcrc rfl, fun h => ⟨hlong.1, fun _ => h, hhead, fun h4 => absurd h4 hlong.2⟩⟩

/-- Settles O16: by the residue after the trailing bytes. -/
theorem trailingBytesAfterAGoodFrame : Obligations.TrailingBytesAfterAGoodFrame := by
  intro f a hf
  obtain ⟨h4, hcrc, -, -⟩ := (validate_eq_none_iff f a false).mp hf
  have hres : crc16Reg f = 0 := hcrc rfl
  have zero_iff (x : Byte) : crc16Reg f = x.setWidth 16 ↔ x = 0 := by
    rw [hres, ← BitVec.toNat_inj, ← BitVec.toNat_inj, BitVec.toNat_setWidth_of_le (by omega), eq_comm]
    rfl
  constructor
  · have hone : crc16Reg (f ++ [0x00]) = 0 := (crc16Reg_append_one_eq_zero_iff f 0).mpr ((zero_iff 0).mpr rfl)
    rw [validate_append_eq_none_iff hf (by simp), ← List.singleton_append, ← List.append_assoc, crc16Reg_append_one_eq_zero_iff, hone]
    rfl
  · intro x
    have hne : f ≠ [] := by rintro rfl; simp at h4
    rw [validate_append_eq_none_iff hf (by simp), crc16Reg_append_one_eq_zero_iff, zero_iff]
    exact (and_iff_left (crc16Reg_before_last hne hres)).symm

end Sys2Proof.Machine

/-! PROOF. The accept step of a transaction and the wire commands (R102, R150, R180 to R182, R241 to R243), in the frame's bitwise form. -/

namespace Sys2Proof.Machine

/-! ### The engine's step by sequencer state -/

theorem engineStep_send {s : State} (hq : s.seq = .send) : engineStep s = sendStep s := by simp only [engineStep, hq]

theorem engineStep_recv {s : State} (hq : s.seq = .recv) : engineStep s = recvStep s := by simp only [engineStep, hq]

theorem engineStep_backoff {s : State} (hq : s.seq = .backoff) : engineStep s = backoffStep s := by simp only [engineStep, hq]

/-! ### The wire commands of the catalogue -/

/-- A request frame in the bitwise form (R102). -/
theorem requestFrame_eq_sentCrc (a : Byte) (c : List Byte) : requestFrame a c = a :: c ++ sentCrc (a :: c) :=
  congrArg ((a :: c) ++ ·) (crcBytes_eq_sentCrc (a :: c))

/-- The catalogue lists the wire commands with their encodings (R106). -/
theorem encode_of_mem_catalogue {i : Instr} {c : List Byte} (h : (i, c) ∈ catalogue) : i.level = .wire ∧ encode i = c := by
  have hall : ∀ p ∈ catalogue, p.1.level = .wire ∧ encode p.1 = p.2 := by decide
  exact hall (i, c) h

/-- Settles O8: the frame in `TXBUF` decodes to the wire command. -/
theorem stepRunsTheWireCommandInSend : Obligations.StepRunsTheWireCommandInSend := by
  intro s a i c hq hh hi hf
  obtain ⟨hl, rfl⟩ := encode_of_mem_catalogue hi
  rw [← requestFrame_eq_sentCrc] at hf
  simp only [step_engine hh, engineStep_send hq, sendStep, hf, decodeFrame_requestFrame a i hl]

/-- Settles O21: a wire command transmits its encoding to the address in `TXBUF[0]`. -/
theorem wireCommandsSendTheirFrames : Obligations.WireCommandsSendTheirFrames := by
  intro s i c a hi _ ha
  obtain ⟨hl, rfl⟩ := encode_of_mem_catalogue hi
  rw [exec_wire i s hl, transmit, ha, ← requestFrame_eq_sentCrc]
  rfl

/-! ### The operations that start a transaction -/

theorem transactionOf_getInstr (f : Family) (s : State) :
    transactionOf s (getInstr f) = if Status.sess s.status then some (s.daddr, commandOf f, .get f) else none := by
  cases f <;> rfl

/-- A measurement in a session starts its family's transaction (R243). -/
theorem exec_getInstr_of_transaction {s : State} {f : Family} {a : Byte} {c : List Byte} {k : Cont}
    (h : transactionOf s (getInstr f) = some (a, c, k)) : c.length ≤ 29 ∧ exec (getInstr f) s = startXact a c k s := by
  rw [transactionOf_getInstr] at h
  split at h
  · next hs =>
    cases h
    have hcmd : Config.familyCmd f = commandOf f := by cases f <;> rfl
    rw [exec_getInstr, getFamily, if_pos hs, hcmd]
    exact ⟨by cases f <;> decide, rfl⟩
  · cases h

/-- An operation with a transaction is `StartXact` with a command that fits (R180, R241 to R243). -/
theorem exec_of_transactionOf {s : State} {i : Instr} {a : Byte} {c : List Byte} {k : Cont}
    (h : transactionOf s i = some (a, c, k)) : c.length ≤ 29 ∧ exec i s = startXact a c k s := by
  cases i with
  | xact b d =>
    simp only [transactionOf] at h
    split at h
    · next hd =>
      cases h
      exact ⟨hd, exec_xact ..⟩
    · cases h
  | openSession | closeSession =>
    cases h
    exact ⟨by decide, rfl⟩
  | getVolt => exact exec_getInstr_of_transaction (f := .voltage) h
  | getCurr => exact exec_getInstr_of_transaction (f := .current) h
  | getPreal => exact exec_getInstr_of_transaction (f := .realPower) h
  | getPreact => exact exec_getInstr_of_transaction (f := .reactivePower) h
  | getPapp => exact exec_getInstr_of_transaction (f := .apparentPower) h
  | getPf => exact exec_getInstr_of_transaction (f := .powerFactor) h
  | getEnergy => exact exec_getInstr_of_transaction (f := .energy) h
  | _ => cases h

/-- The accept step of an operation with a transaction (R181). -/
theorem exec_started {s : State} {i : Instr} {a : Byte} {c : List Byte} {k : Cont} (h : transactionOf s i = some (a, c, k)) :
    exec i s = .next (started a c k s) := by
  obtain ⟨hc, hx⟩ := exec_of_transactionOf h
  exact hx.trans (startXact_fits a c k s hc)

/-- The accept step leaves the bytes past the frame as they were (R34, R150). -/
theorem started_read_past {c : List Byte} {j : Nat} (a : Byte) (k : Cont) (s : State) (hj : c.length + 3 ≤ j) :
    Memory.read (started a c k s).txbuf j = Memory.read s.txbuf j := by
  have hpast : ¬ (0 ≤ j ∧ j < 0 + (requestFrame a c).length) := by
    rw [requestFrame_length]
    omega
  exact (Memory.read_putAll ..).trans (if_neg hpast)

/-- The accept step clears `LERR`, sets `BUSY` and keeps the rest of `STATUS` (R181). -/
theorem started_status (a : Byte) (c : List Byte) (k : Cont) (s : State) :
    Status.busy (started a c k s).status = true ∧ Status.lerr (started a c k s).status = 0 ∧
    Status.rv (started a c k s).status = Status.rv s.status ∧ Status.err (started a c k s).status = Status.err s.status ∧
    Status.sess (started a c k s).status = Status.sess s.status ∧ Status.clf (started a c k s).status = Status.clf s.status ∧
    Status.reserved (started a c k s).status = Status.reserved s.status := by
  simp [started, lerrNone]

/-- Settles O17: the accept step is `StartXact` with a command that fits. -/
theorem acceptStepStartsTheTransaction : Obligations.AcceptStepStartsTheTransaction := by
  intro s i a c k h
  obtain ⟨hc, -⟩ := exec_of_transactionOf h
  have hframe : (started a c k s).frame = some (a :: c ++ sentCrc (a :: c)) := requestFrame_eq_sentCrc a c ▸ started_frame a c k s hc
  have hlen : (started a c k s).txlen.toNat = c.length + 3 := toNat_length _ (Nat.add_le_add_right hc 3)
  obtain ⟨hbusy, hlerr, hrv, herr, hsess, hclf, hres⟩ := started_status a c k s
  exact ⟨started a c k s, exec_started h, hframe, hlen, fun j => started_read_past a k s, rfl, rfl, rfl, rfl, hbusy, hlerr, hrv, herr,
    hsess, hclf, hres, rfl⟩

/-- Settles O38: `StartXact` copies `CFG` and `SESS` on both sides of the length check, and reads neither. -/
theorem rawTransactionIgnoresAddressAndSession : Obligations.RawTransactionIgnoresAddressAndSession := by
  intro a c s cfg sess t h
  rw [exec_xact] at h ⊢
  rcases Nat.lt_or_ge Config.cmdMax c.length with hc | hc
  · rw [startXact_tooLong a c .raw _ hc] at h ⊢
    cases h
    exact ⟨_, rfl, by simp, rfl, by simp, by simp, by simp, by simp, by simp⟩
  · rw [startXact_fits a c .raw _ hc] at h ⊢
    cases h
    exact ⟨_, rfl, by simp [started], rfl, by simp [started], by simp [started], by simp [started], by simp [started],
      by simp [started]⟩

end Sys2Proof.Machine

/-! PROOF. The decodes and the configuration (R98, R100, R211 to R220, R240): what `DEC3`, `DEC4` and `WCFG` leave in every register. -/

namespace Sys2Proof.Machine

/-! ### Decode3 -/

/-- The bits of a flag byte, and that there are no others (R41). -/
theorem flagByte_bits : ∀ b0 b1 b2 b3 : Bool,
    let d : Byte := 0#4 ++ BitVec.ofBool b3 ++ BitVec.ofBool b2 ++ BitVec.ofBool b1 ++ BitVec.ofBool b0
    d.toNat < 16 ∧ d.getLsbD 0 = b0 ∧ d.getLsbD 1 = b1 ∧ d.getLsbD 2 = b2 ∧ d.getLsbD 3 = b3 := by decide

/-- The flags of `Decode3` stand in bits 3:0 (R41). -/
theorem flags3_toNat_lt (p : List Byte) (m : Byte) : (flags3 p m).toNat < 16 := (flagByte_bits ..).1

/-- `Decode3` flags the slots past the payload (R213). -/
theorem flags3_getLsbD (p : List Byte) (m : Byte) (i : Fin 4) : (flags3 p m).getLsbD i = decide (p.length ≤ 3 * i.val + 2) := by
  obtain ⟨-, h0, h1, h2, h3⟩ := flagByte_bits (slot3 p m 0).isNone (slot3 p m 1).isNone (slot3 p m 2).isNone (slot3 p m 3).isNone
  rw [← slot3_isNone p m]
  fin_cases i
  exacts [h0, h1, h2, h3]

/-- The state after a `Decode3` of a payload of the expected length (R212). -/
def decoded3 (p : List Byte) (m : Byte) (div : Half) (s : State) : State :=
  { s with
    val0 := value3 p m s.draws 0
    val1 := value3 p m s.draws 1
    val2 := value3 p m s.draws 2
    val3 := value3 p m s.draws 3
    dd := flags3 p m
    divr := div
    draws := s.draws + 4 }

theorem decode3_eq_some {p : List Byte} {e : Byte} (m : Byte) (div : Half) (s : State) (hp : p.length = e.toNat) :
    decode3 p m div e s = some (decoded3 p m div s) := if_pos hp

/-- A slot inside the payload holds its register as a number (R211). -/
theorem decoded3_slot_toNat {p : List Byte} {i : Fin 4} (m : Byte) (div : Half) (s : State) (h : 3 * i.val + 2 < p.length) :
    ((decoded3 p m div s).slot i).toNat =
      (p.getD (3 * i.val) 0 &&& m).toNat * 65536 + (p.getD (3 * i.val + 2) 0).toNat * 256 + (p.getD (3 * i.val + 1) 0).toNat := by
  have hslot : (decoded3 p m div s).slot i = value3 p m s.draws i := by fin_cases i <;> rfl
  rw [hslot, value3_inside m s.draws h, asm3_toNat]

/-- `DEC3` with a legal divisor completes with its `Decode3` (R212). -/
theorem exec_dec3 {div : Half} (m e : Byte) (p : List Byte) (s : State) (hdiv : div ≠ 0) :
    exec (.dec3 m div e p) s = .next (completeDecode Opcode.dec3 s (decode3 p m div e s)) :=
  if_pos (bne_iff_ne.mpr hdiv)

theorem exec_dec3_decoded {div : Half} {e : Byte} {p : List Byte} (m : Byte) (s : State) (hdiv : div ≠ 0) (hp : p.length = e.toNat) :
    exec (.dec3 m div e p) s = .next (State.completeOk Opcode.dec3 (decoded3 p m div s)) := by
  rw [exec_dec3 m e p s hdiv, decode3_eq_some m div s hp]
  rfl

/-- Settles O31: `DEC3` completes with the decoded state, of which each slot inside the payload is known. -/
theorem dec3DecodesEverySlot : Obligations.Dec3DecodesEverySlot := by
  intro m div e p s hdiv hp
  exact ⟨_, exec_dec3_decoded m s hdiv hp, completeOk_completed .., completeOk_keeps Opcode.dec3 (decoded3 p m div s), rfl,
    flags3_toNat_lt p m, flags3_getLsbD p m, fun i => decoded3_slot_toNat m div s, rfl⟩

/-- A masked byte is at most its mask. -/
theorem and_toNat_le (b m : Byte) : (b &&& m).toNat ≤ m.toNat := by
  rw [BitVec.toNat_and]
  exact Nat.and_le_right

/-- Settles O35: a slot that is not flagged lies inside the payload, and its top byte is at most the mask. -/
theorem threeByteValuesAreUnsigned : Obligations.ThreeByteValuesAreUnsigned := by
  intro m div e p s t hdiv hp ht i hi
  cases (exec_dec3_decoded m s hdiv hp).symm.trans ht
  have hin : ¬ p.length ≤ 3 * i.val + 2 := of_decide_eq_false ((flags3_getLsbD p m i).symm.trans hi)
  have hval := decoded3_slot_toNat m div s (Nat.lt_of_not_le hin)
  have hmask := and_toNat_le (p.getD (3 * i.val) 0) m
  have h1 := (p.getD (3 * i.val + 1) 0).isLt
  have h2 := (p.getD (3 * i.val + 2) 0).isLt
  have hm := m.isLt
  have hslot : (State.completeOk Opcode.dec3 (decoded3 p m div s)).slot i = (decoded3 p m div s).slot i := by fin_cases i <;> rfl
  rw [hslot, hval]
  refine ⟨by omega, fun h => ?_⟩
  have h3F : m.toNat = 63 := congrArg BitVec.toNat h
  omega

/-! ### Decode4 -/

/-- The state after a `Decode4` of 16 bytes (R215). -/
def decoded4 (p : List Byte) (s : State) : State :=
  { s with
    val0 := slot4 p 0
    val1 := slot4 p 1
    val2 := slot4 p 2
    val3 := slot4 p 3
    dd := 0
    divr := Config.divE }

theorem decode4_eq_some {p : List Byte} (s : State) (hp : p.length = 16) : decode4 p s = some (decoded4 p s) := if_pos hp

/-- The sentinel as a number is 4294967295 (R216). -/
theorem normalise_toNat (v : Word) : (normalise v).toNat = if v.toNat = 4294967295 then 0 else v.toNat := by
  have hs : v = Config.sentinel ↔ v.toNat = 4294967295 := BitVec.toNat_inj.symm
  unfold normalise
  simp only [hs]
  split <;> rfl

/-- A slot holds its register as a number, the sentinel read as 0 (R214 to R216). -/
theorem decoded4_slot_toNat (p : List Byte) (s : State) (i : Fin 4) :
    let v := (p.getD (4 * i.val + 1) 0).toNat * 16777216 + (p.getD (4 * i.val) 0).toNat * 65536
      + (p.getD (4 * i.val + 3) 0).toNat * 256 + (p.getD (4 * i.val + 2) 0).toNat
    ((decoded4 p s).slot i).toNat = if v = 4294967295 then 0 else v := by
  have hslot : (decoded4 p s).slot i = slot4 p i := by fin_cases i <;> rfl
  rw [hslot, slot4, normalise_toNat, asm4_toNat]

/-- Settles O33: `DEC4` completes with the decoded state, of which each slot is known. -/
theorem dec4DecodesEveryRegister : Obligations.Dec4DecodesEveryRegister := by
  intro p s hp
  have hexec : exec (.dec4 p) s = .next (State.completeOk Opcode.dec4 (decoded4 p s)) :=
    congrArg (fun d => Host.Outcome.next (completeDecode Opcode.dec4 s d)) (decode4_eq_some s hp)
  exact ⟨_, hexec, completeOk_completed .., completeOk_keeps Opcode.dec4 (decoded4 p s), rfl, rfl, decoded4_slot_toNat p s, rfl⟩

/-! ### The operations that write nothing but their outcome -/

/-- Settles O32: a decode of another length gives nothing, and the operation only raises the error. -/
theorem decodeOfWrongLengthIsADecodeError : Obligations.DecodeOfWrongLengthIsADecodeError := by
  constructor
  · intro m div e p s hdiv hp
    have hnone : decode3 p m div e s = none := if_neg hp
    refine ⟨_, exec_dec3 m e p s hdiv, ?_⟩
    rw [hnone]
    exact ⟨raise_completed .decodeError .., raise_keeps .decodeError .., rfl⟩
  · intro p s hp
    have hnone : decode4 p s = none := if_neg hp
    have hexec : exec (.dec4 p) s = .next (completeDecode Opcode.dec4 s (decode4 p s)) := rfl
    refine ⟨_, hexec, ?_⟩
    rw [hnone]
    exact ⟨raise_completed .decodeError .., raise_keeps .decodeError .., rfl⟩

/-- Settles O37: both operands are illegal, so the operation only raises the error. -/
theorem illegalOperandsCompleteWithIllegalOp : Obligations.IllegalOperandsCompleteWithIllegalOp := by
  constructor
  · intro c0 c1 s hc
    have hillegal : legalConfig c0 = false := (legalConfig_eq_false_iff c0).mpr (by omega)
    exact ⟨_, exec_of_illegalOperands (i := .wcfg c0 c1) hillegal s, raise_completed .illegalOp .., raise_keeps .illegalOp .., rfl⟩
  · intro m e p s
    exact ⟨_, exec_of_illegalOperands (i := .dec3 m 0 e p) rfl s, raise_completed .illegalOp .., raise_keeps .illegalOp .., rfl⟩

/-! ### WCFG -/

/-- `(C1 << 8) | C0` as a number (R98). -/
theorem ofBytes_toNat (c0 c1 : Byte) : (Cfg.ofBytes c0 c1).toNat = c1.toNat * 256 + c0.toNat := by
  have happend : (Cfg.ofBytes c0 c1).toNat = c1.toNat <<< 8 ||| c0.toNat := BitVec.toNat_append ..
  rw [happend, ← Nat.shiftLeft_add_eq_or_of_lt c0.isLt, Nat.shiftLeft_eq]

/-- Settles O36: a legal `WCFG` completes with the two bytes in `CFG`. -/
theorem wcfgWritesTheConfiguration : Obligations.WcfgWritesTheConfiguration := by
  intro c0 c1 s hc
  have hlegal : legalConfig c0 = true := by
    rw [← Bool.not_eq_false, legalConfig_eq_false_iff]
    omega
  have hics : c0.getLsbD 0 = decide (c0 = 1) := by
    obtain rfl | rfl : c0 = 0 ∨ c0 = 1 := by bv_omega
    · rfl
    · rfl
  have hexec : exec (.wcfg c0 c1) s = .next (State.completeOk Opcode.wcfg { s with cfg := Cfg.ofBytes c0 c1 }) := if_pos hlegal
  exact ⟨_, hexec, ofBytes_toNat c0 c1, (Cfg.ics_ofBytes c0 c1).trans hics, Cfg.daddr_ofBytes c0 c1, completeOk_completed ..,
    completeOk_keeps Opcode.wcfg { s with cfg := Cfg.ofBytes c0 c1 }, rfl⟩

end Sys2Proof.Machine

/-! PROOF. The read port (R22, R306): its index map, and what it returns while busy. -/

namespace Sys2Proof.Machine

/-- A result register that reads a value reads its own (R22). -/
theorem readResult_ok {s : State} {r : ResultReg} {u v : Word} (h : readResult s r u = .ok v) : v = u := by
  rcases readResult_cases s r u with ⟨-, h'⟩ | ⟨-, -, -, h'⟩ | ⟨-, -, h'⟩ <;> cases h'.symm.trans h
  rfl

/-- While busy no result register is defined (R306). -/
theorem readResult_of_busy {s : State} (hb : s.busy = true) (r : ResultReg) (v : Word) : readResult s r v = .error .readWhileBusy :=
  if_pos hb

/-- A buffer byte below the valid length reads its value (R34, R35). -/
theorem readBuffer_of_read {m : Memory} {len : Byte} {i : Nat} {b : Byte} (hi : i < len.toNat) (hb : Memory.read m i = some b) :
    readBuffer m len i = .ok (b.setWidth 32) := by
  simp [readBuffer, hi, hb]

/-- A byte of the sequence that reads back of a buffer is the one the port reads (R34, R35). -/
theorem readBuffer_of_getElem? {m : Memory} {len : Byte} {f : List Byte} {i : Nat} {b : Byte}
    (hf : Memory.readAll m 0 len.toNat = some f) (hb : f[i]? = some b) : readBuffer m len i = .ok (b.setWidth 32) := by
  obtain ⟨hl, hr⟩ := Memory.readAll_eq_some.mp hf
  have hi : i < len.toNat := by
    rw [← hl]
    exact (List.getElem?_eq_some_iff.mp hb).1
  refine readBuffer_of_read hi ?_
  rw [← hb, ← hr i hi, Nat.zero_add]

/-- Everything a read of the port can do, by the arms of the index map in their order (R22). -/
theorem readReg_cases (n : Byte) (s : State) :
    (∃ v, readReg n s = .ok v) ∨ (∃ r v, readReg n s = readResult s r v) ∨
    (∃ i, readReg n s = readBuffer s.txbuf s.txlen i) ∨ (∃ i, readReg n s = readBuffer s.rxbuf s.rxlen i) := by
  unfold readReg
  split
  iterate 5 exact .inl ⟨_, rfl⟩
  iterate 4 exact .inr (.inl ⟨_, _, rfl⟩)
  · exact .inl ⟨_, rfl⟩
  iterate 4 exact .inr (.inl ⟨_, _, rfl⟩)
  split_ifs
  · exact .inr (.inr (.inl ⟨_, rfl⟩))
  · exact .inr (.inr (.inr ⟨_, rfl⟩))
  · exact .inl ⟨_, rfl⟩

/-- A reserved index reads 0: no arm of the index map is at it (R22). -/
theorem readReg_reserved {n : Byte} (s : State)
    (h : 0x0A ≤ n.toNat ∧ n.toNat ≤ 0x0F ∨ 0x14 ≤ n.toNat ∧ n.toNat ≤ 0x1F ∨ 0x60 ≤ n.toNat) : readReg n s = .ok 0 := by
  have h32 : Config.bufMax = 32 := rfl
  have htx : ¬ (0x20 ≤ n.toNat ∧ n.toNat < 0x20 + Config.bufMax) := by omega
  have hrx : ¬ (0x40 ≤ n.toNat ∧ n.toNat < 0x40 + Config.bufMax) := by omega
  unfold readReg
  split
  case h_15 => rw [if_neg htx, if_neg hrx]
  all_goals omega

/-- The indices of `VAL0` to `VAL3` (R22). -/
theorem readReg_slot (i : Fin 4) (s : State) : ∃ r, readReg (0x10 + BitVec.ofNat 8 i.val) s = readResult s r (s.slot i) := by
  fin_cases i
  exacts [⟨.val0, rfl⟩, ⟨.val1, rfl⟩, ⟨.val2, rfl⟩, ⟨.val3, rfl⟩]

/-- Settles O41: each index by its arm of the port, and a read as a step that only logs its value. -/
theorem readPortFollowsTheIndexMap : Obligations.ReadPortFollowsTheIndexMap := by
  intro s
  refine ⟨rfl, rfl, rfl, rfl, rfl, rfl, fun v => readResult_ok, fun v => readResult_ok, fun v => readResult_ok, fun v => readResult_ok,
    ?slots, ?tx, ?rx, fun n => readReg_reserved s, ?step⟩
  case slots =>
    intro i v h
    obtain ⟨r, hr⟩ := readReg_slot i s
    exact readResult_ok (hr ▸ h)
  case tx => exact fun i b h32 hi hb => (readReg_txbuf i h32 s).trans (readBuffer_of_read hi hb)
  case rx => exact fun i b h32 hi hb => (readReg_rxbuf i h32 s).trans (readBuffer_of_read hi hb)
  case step =>
    intro n v rest hh hv
    have hv' : readReg n (s.withHost rest) = .ok v := hv
    rw [step_readReg hh, readStep, hv']
    rfl

/-- Settles O43: the rules of the port for a busy engine. -/
theorem readsWhileBusy : Obligations.ReadsWhileBusy := by
  intro s hb
  refine ⟨fun n hn => ?result, rfl, rfl, rfl, rfl, rfl, rfl, ?tx, ?rx, ?txPast, ?rxPast⟩
  case result =>
    obtain ⟨r, rfl⟩ := exists_index_of_mem hn
    obtain ⟨v, hv⟩ := readReg_index r s
    rw [hv, readResult_of_busy hb]
  case tx => exact fun f i b hf h32 hb => (readReg_txbuf i h32 s).trans (readBuffer_of_getElem? hf hb)
  case rx => exact fun r i b hr h32 hb => (readReg_rxbuf i h32 s).trans (readBuffer_of_getElem? hr hb)
  case txPast => exact fun i h32 hi => (readReg_txbuf i h32 s).trans (readBuffer_of_length_le hi _)
  case rxPast => exact fun i h32 hi => (readReg_rxbuf i h32 s).trans (readBuffer_of_length_le hi _)

end Sys2Proof.Machine

/-! PROOF. Every step from a safe state answers a safe state, or is a read of an unspecified register: the invariant of the whole
machine. -/

namespace Sys2Proof.Machine

/-! ### The part of a safe state that the sequencer has no say in -/

/-- A buffer in canonical form whose bytes below its length have values (R34, R35, R60). -/
structure SoundBuffer (m : Memory) (len : Byte) : Prop where
  canonical : Memory.wf m = true
  length : len.toNat ≤ 32
  held : ∃ f, Memory.readAll m 0 len.toNat = some f

/-- The codes and the reserved bits of `STATUS` (R26, R28, R31, R32). -/
structure SoundStatus (st : Half) : Prop where
  reserved : Status.reserved st = 0
  errLegal : (Status.err st).toNat ∈ [0, 1, 3, 4, 5, 6]
  lerrLegal : (Status.lerr st).toNat ≤ 4
  validResult : Status.rv st = true → Status.err st = 0

/-- What a safe state says of the registers whatever `STATE`, `BUSY` and `CONT` are. -/
structure SoundRegs (s : State) : Prop where
  tx : SoundBuffer s.txbuf s.txlen
  rx : SoundBuffer s.rxbuf s.rxlen
  cfg : Cfg.reserved s.cfg = 0
  status : SoundStatus s.status
  dd : s.dd.toNat < 16
  attempts : s.att.toNat ≤ 16

/-- The attempts that each sequencer state allows (R184, R185). -/
def AttemptsFit (q : SeqState) (att : Nat) (lerr : BitVec 3) : Prop :=
  match q with
  | .idle => True
  | .send => att < 16
  | .recv => 1 ≤ att
  | .backoff => 1 ≤ att ∧ att < 16 ∧ lerr ≠ 0

/-- `TXBUF` holds a request frame of at most 29 command bytes (R102). -/
def HoldsRequest (s : State) : Prop := ∃ a c, c.length ≤ 29 ∧ s.frame = some (a :: c ++ sentCrc (a :: c))

/-- A safe state is sound registers with a sequencer that fits them. -/
theorem SoundRegs.safe {s : State} (h : SoundRegs s) (hb : s.busy = false ↔ s.seq = .idle)
    (hn : AttemptsFit s.seq s.att.toNat (Status.lerr s.status)) (hf : s.busy = true → HoldsRequest s)
    (hs : s.busy = true → ∀ f, s.cont = .get f → Status.sess s.status = true) : SafeState s where
  txCanonical := h.tx.canonical
  rxCanonical := h.rx.canonical
  txLength := h.tx.length
  rxLength := h.rx.length
  txHeld := h.tx.held
  rxHeld := h.rx.held
  cfgReserved := h.cfg
  statusReserved := h.status.reserved
  ddReserved := h.dd
  errLegal := h.status.errLegal
  lerrLegal := h.status.lerrLegal
  validResult := h.status.validResult
  attempts := h.attempts
  busyState := hb
  sendCount := fun hq => by simpa [AttemptsFit, hq] using hn
  recvCount := fun hq => by simpa [AttemptsFit, hq] using hn
  backoffCount := fun hq => by simpa [AttemptsFit, hq] using hn
  frameHeld := hf
  sessionHeld := hs

/-- An idle state is safe by its registers alone. -/
theorem SoundRegs.safe_idle {s : State} (h : SoundRegs s) (hb : s.busy = false) (hq : s.seq = .idle) : SafeState s :=
  h.safe (by simp [hb, hq]) (by simp [AttemptsFit, hq]) (by simp [hb]) (by simp [hb])

/-- A busy state is safe by its registers, its attempts, its frame and its session. -/
theorem SoundRegs.safe_busy {s : State} (h : SoundRegs s) (hb : s.busy = true) (hq : s.seq ≠ .idle)
    (hn : AttemptsFit s.seq s.att.toNat (Status.lerr s.status)) (hf : HoldsRequest s)
    (hs : ∀ f, s.cont = .get f → Status.sess s.status = true) : SafeState s :=
  h.safe (by simp [hb, hq]) hn (fun _ => hf) (fun _ => hs)

section
variable {s : State} (h : SafeState s)
include h

theorem SafeState.sound : SoundRegs s where
  tx := ⟨h.txCanonical, h.txLength, h.txHeld⟩
  rx := ⟨h.rxCanonical, h.rxLength, h.rxHeld⟩
  cfg := h.cfgReserved
  status := ⟨h.statusReserved, h.errLegal, h.lerrLegal, h.validResult⟩
  dd := h.ddReserved
  attempts := h.attempts

theorem SafeState.attemptsFit : AttemptsFit s.seq s.att.toNat (Status.lerr s.status) := by
  cases hq : s.seq with
  | idle => exact True.intro
  | send => exact h.sendCount hq
  | recv => exact h.recvCount hq
  | backoff => exact h.backoffCount hq

/-- Outside `IDLE` the engine is busy (R38). -/
theorem SafeState.busy_of_seq_ne (hq : s.seq ≠ .idle) : s.busy = true :=
  Bool.of_not_eq_false fun hb => hq (h.busyState.mp hb)

/-- Safety does not depend on the outside world or on the draws taken. -/
theorem SafeState.withOutside (d : Nat) (w : World) : SafeState { s with draws := d, world := w } :=
  have hr := h.sound
  SoundRegs.safe ⟨hr.tx, hr.rx, hr.cfg, hr.status, hr.dd, hr.attempts⟩ h.busyState h.attemptsFit h.frameHeld h.sessionHeld

end

/-! ### STATUS stays sound -/

namespace SoundStatus
variable {st : Half} (h : SoundStatus st)
include h

theorem setBusy (b : Bool) : SoundStatus (Status.setBusy st b) :=
  ⟨by simpa using h.reserved, by simpa using h.errLegal, by simpa using h.lerrLegal, by simpa using h.validResult⟩

theorem setSess (b : Bool) : SoundStatus (Status.setSess st b) :=
  ⟨by simpa using h.reserved, by simpa using h.errLegal, by simpa using h.lerrLegal, by simpa using h.validResult⟩

theorem setClf (b : Bool) : SoundStatus (Status.setClf st b) :=
  ⟨by simpa using h.reserved, by simpa using h.errLegal, by simpa using h.lerrLegal, by simpa using h.validResult⟩

theorem setLerr {l : BitVec 3} (hl : l.toNat ≤ 4) : SoundStatus (Status.setLerr st l) :=
  ⟨by simpa using h.reserved, by simpa using h.errLegal, by simpa using hl, by simpa using h.validResult⟩

/-- Every error but `CHANNEL_ERROR` may be raised (R31, R279). -/
theorem raise {e : ErrorCode} (he : e ≠ .channelError) :
    SoundStatus (Status.setBusy (Status.setRv (Status.setErr st e.code) false) false) :=
  ⟨by simpa using h.reserved, by cases e <;> simp_all [ErrorCode.code], by simpa using h.lerrLegal, by simp⟩

theorem complete : SoundStatus (Status.setBusy (Status.setRv (Status.setErr st errNone) true) false) :=
  ⟨by simpa using h.reserved, by simp [errNone], by simpa using h.lerrLegal, by simp [errNone]⟩

end SoundStatus

theorem ValidationError.code_toNat_le (v : ValidationError) : v.code.toNat ≤ 4 := by cases v <;> decide

theorem ValidationError.code_ne_zero (v : ValidationError) : v.code ≠ 0 := by cases v <;> decide

/-! ### The registers stay sound -/

/-- A sequence written from index 0 is what the buffer holds (R34, R35). -/
theorem SoundBuffer.putAll {m : Memory} {len : Byte} (h : SoundBuffer m len) {r : List Byte} (hr : r.length ≤ 32) :
    SoundBuffer (Memory.putAll m 0 r) (BitVec.ofNat 8 r.length) := by
  have hlen : (BitVec.ofNat 8 r.length).toNat = r.length := toNat_length r.length hr
  have hfits : 0 + r.length ≤ Config.bufMax := by rwa [Nat.zero_add]
  exact ⟨Memory.wf_putAll m 0 r hfits h.canonical, hlen.symm ▸ hr, r, hlen.symm ▸ Memory.readAll_putAll m 0 r⟩

/-- A buffer of length 0 holds no bytes. -/
theorem SoundBuffer.empty {m : Memory} {len : Byte} (h : SoundBuffer m len) : SoundBuffer m 0 :=
  ⟨h.canonical, by decide, [], rfl⟩

namespace SoundRegs
variable {s : State} (h : SoundRegs s)
include h

theorem withStatus {st : Half} (hst : SoundStatus st) : SoundRegs { s with status := st } :=
  ⟨h.tx, h.rx, h.cfg, hst, h.dd, h.attempts⟩

theorem withPlen (p : Byte) : SoundRegs { s with plen := p } := ⟨h.tx, h.rx, h.cfg, h.status, h.dd, h.attempts⟩

theorem decodedFrom {u : State} (hd : u.dd.toNat < 16) : SoundRegs (State.decodedFrom u s) :=
  ⟨h.tx, h.rx, h.cfg, h.status, hd, h.attempts⟩

theorem clearTransaction : SoundRegs s.clearTransaction :=
  ⟨h.tx, h.rx.empty, h.cfg, h.status.setLerr (by decide), h.dd, Nat.zero_le 16⟩

theorem stored {r : List Byte} (hr : r.length ≤ 32) : SoundRegs (stored r s) :=
  ⟨h.tx, h.rx.putAll hr, h.cfg, h.status, h.dd, h.attempts⟩

/-- An error completion ends in a safe state. -/
theorem raise_safe {e : ErrorCode} (o : Byte) (he : e ≠ .channelError) : SafeState (State.raise e o s) :=
  (show SoundRegs (State.raise e o s) from ⟨h.tx, h.rx, h.cfg, h.status.raise he, h.dd, h.attempts⟩).safe_idle
    (by simp [State.busy]) rfl

/-- A successful completion ends in a safe state. -/
theorem completeOk_safe (o : Byte) : SafeState (State.completeOk o s) :=
  (show SoundRegs (State.completeOk o s) from ⟨h.tx, h.rx, h.cfg, h.status.complete, h.dd, h.attempts⟩).safe_idle
    (by simp [State.busy]) rfl

/-- An operation that decodes ends in a safe state (R220). -/
theorem completeDecode_safe {d : Option State} (o : Byte) (hd : ∀ u, d = some u → SoundRegs u) :
    SafeState (completeDecode o s d) := by
  cases d with
  | none => exact h.raise_safe o (by decide)
  | some u => exact (hd u rfl).completeOk_safe o

end SoundRegs

theorem SoundRegs.decode3 {s u : State} {p : List Byte} {m e : Byte} {div : Half} (h : SoundRegs s)
    (hu : decode3 p m div e s = some u) : SoundRegs u := by
  rcases decode3_cases p m div e s with ⟨-, h'⟩ | ⟨-, h'⟩ <;> cases h'.symm.trans hu
  exact ⟨h.tx, h.rx, h.cfg, h.status, flags3_toNat_lt p m, h.attempts⟩

theorem SoundRegs.decode4 {s u : State} {p : List Byte} (h : SoundRegs s) (hu : decode4 p s = some u) : SoundRegs u := by
  rcases decode4_cases p s with ⟨-, h'⟩ | ⟨-, h'⟩ <;> cases h'.symm.trans hu
  exact ⟨h.tx, h.rx, h.cfg, h.status, (by decide : (0 : Byte).toNat < 16), h.attempts⟩

theorem SoundRegs.decodeFamily {s u : State} {f : Family} {p : List Byte} (h : SoundRegs s) (hu : decodeFamily f p s = some u) :
    SoundRegs u := by
  obtain ⟨hframe, hdd⟩ := decodeFamily_frame hu
  rw [hframe]
  exact h.decodedFrom hdd

/-! ### The accept step -/

/-- The outcome is a next state, and a safe one. -/
def AnswersSafe (o : Result) : Prop := ∃ t, o = .next t ∧ SafeState t

theorem AnswersSafe.next {t : State} (h : SafeState t) : AnswersSafe (.next t) := ⟨t, rfl, h⟩

/-- A transaction that starts has its frame in `TXBUF` and no attempt made (R181). -/
theorem SoundRegs.started_safe {s : State} (h : SoundRegs s) (a : Byte) {c : List Byte} (k : Cont) (hc : c.length ≤ 29)
    (hk : ∀ f, k = .get f → Status.sess s.status = true) : SafeState (started a c k s) := by
  have hlen : (requestFrame a c).length ≤ 32 := by rw [requestFrame_length]; omega
  have htx : SoundBuffer (started a c k s).txbuf (started a c k s).txlen := by
    have hput := h.tx.putAll hlen
    rwa [requestFrame_length] at hput
  have hcl := h.clearTransaction
  have hregs : SoundRegs (started a c k s) :=
    ⟨htx, hcl.rx, hcl.cfg, hcl.status.setBusy true, hcl.dd, hcl.attempts⟩
  obtain ⟨hbusy, -, -, -, hsess, -, -⟩ := started_status a c k s
  exact hregs.safe_busy hbusy (by simp [started]) (show 0 < 16 by decide)
    ⟨a, c, hc, requestFrame_eq_sentCrc a c ▸ started_frame a c k s hc⟩ fun f hf => hsess.trans (hk f hf)

/-- `StartXact` answers a safe state on both sides of the length check (R151, R181). -/
theorem SoundRegs.startXact_safe {s : State} (h : SoundRegs s) (a : Byte) (c : List Byte) {k : Cont}
    (hk : ∀ f, k = .get f → Status.sess s.status = true) : AnswersSafe (startXact a c k s) := by
  have hcl := h.clearTransaction
  rcases startXact_cases a c k s with ⟨hc, hx⟩ | ⟨-, hx⟩ <;> rw [hx]
  · exact .next (h.started_safe a k hc hk)
  · have hempty : SoundRegs { s.clearTransaction with txlen := 0 } :=
      ⟨h.tx.empty, hcl.rx, hcl.cfg, hcl.status, hcl.dd, hcl.attempts⟩
    exact .next (hempty.raise_safe k.opcode (by decide))

/-- A measurement answers a safe state, with a session and without one (R243, R251). -/
theorem SoundRegs.getFamily_safe {s : State} (h : SoundRegs s) (f : Family) : AnswersSafe (getFamily f s) := by
  unfold getFamily
  split
  · next hs => exact h.startXact_safe _ _ fun _ _ => hs
  · exact .next (h.raise_safe _ (by decide))

/-- Every host operation answers a safe state. -/
theorem SoundRegs.exec_safe {s : State} (h : SoundRegs s) {i : Instr} (hl : i.level = .host) : AnswersSafe (exec i s) := by
  cases i with
  | crc16 d =>
    have hregs : SoundRegs { s with crcout := crc16Out d } := ⟨h.tx, h.rx, h.cfg, h.status, h.dd, h.attempts⟩
    exact .next (hregs.completeOk_safe _)
  | xact a c => exact h.startXact_safe a c nofun
  | dec3 m div e p =>
    simp only [exec, execDec3]
    split
    · exact .next (h.completeDecode_safe _ fun u => h.decode3)
    · exact .next (h.raise_safe _ (by decide))
  | dec4 p => exact .next (h.completeDecode_safe _ fun u => h.decode4)
  | wcfg c0 c1 =>
    simp only [exec, execWcfg]
    split
    · next hc =>
      have hregs : SoundRegs { s with cfg := Cfg.ofBytes c0 c1 } :=
        ⟨h.tx, h.rx, Cfg.reserved_ofBytes c0 c1 hc, h.status, h.dd, h.attempts⟩
      exact .next (hregs.completeOk_safe _)
    · exact .next (h.raise_safe _ (by decide))
  | openSession => exact h.startXact_safe s.daddr Config.openCmd (k := .opening) nofun
  | closeSession => exact h.startXact_safe s.daddr Config.closeCmd (k := .closing) nofun
  | getVolt | getCurr | getPreal | getPreact | getPapp | getPf | getEnergy => exact h.getFamily_safe _
  | wireVolt | wireCurr | wirePreal | wirePreact | wirePapp | wirePf | wireEnergy | wireOpen | wireClose => cases hl

/-- The accept step answers a safe state, for an illegal word too (R305). -/
theorem SoundRegs.accept_safe {s : State} (h : SoundRegs s) (w : List Byte) : AnswersSafe (accept w s) := by
  unfold accept
  split
  · next i hi => exact h.exec_safe (decodeAt_host_level hi)
  · exact .next (h.raise_safe _ (by decide))

/-! ### The engine's steps -/

/-- An attempt that is sent is one of at most 16 (R182). -/
theorem SafeState.sendStep_safe {s : State} (h : SafeState s) (hq : s.seq = .send) : AnswersSafe (sendStep s) := by
  obtain ⟨f, hf⟩ := h.txHeld
  have hr := h.sound
  have hb := h.busy_of_seq_ne (by simp [hq])
  have hatt : (s.att + 1).toNat = s.att.toNat + 1 := by
    have hlt := h.sendCount hq
    bv_omega
  have hregs : SoundRegs (sendFrame f s) := ⟨hr.tx, hr.rx, hr.cfg, hr.status, hr.dd, hatt.trans_le (h.sendCount hq)⟩
  rw [sendStep_frame hf]
  exact .next (hregs.safe_busy hb nofun (show 1 ≤ (s.att + 1).toNat by omega) (h.frameHeld hb) (h.sessionHeld hb))

/-- `FinishFail` ends in a safe state, whatever the continuation is (R187). -/
theorem SoundRegs.finishFail_safe {s : State} (h : SoundRegs s) : SafeState (finishFail s) := by
  unfold finishFail
  split
  · exact h.raise_safe _ (by decide)
  · exact (h.withStatus (h.status.setSess false)).raise_safe _ (by decide)
  · exact (h.withStatus ((h.status.setSess false).setClf true)).completeOk_safe _
  · exact h.raise_safe _ (by decide)

/-- `FinishOK` ends in a safe state, whatever the continuation is (R186, R243). -/
theorem SoundRegs.finishOk_safe {s : State} (h : SoundRegs s) {r : List Byte} {a : Byte} {ics : Bool} (hr : r.length ≤ 32)
    (hv : validate r a ics = none) : AnswersSafe (finishOk (Machine.stored r s)) := by
  have ht := (h.stored hr).withPlen ((Machine.stored r s).rxlen - 3)
  rw [finishOk_stored hr hv]
  refine .next ?_
  split
  · exact ht.completeOk_safe _
  · exact (ht.withStatus (ht.status.setSess true)).completeOk_safe _
  · exact (ht.withStatus ((ht.status.setSess false).setClf false)).completeOk_safe _
  · exact ht.completeDecode_safe _ fun u => ht.decodeFamily

/-- A failed attempt leads to a safe state: the end after the last one, `BACKOFF` before it (R184). -/
theorem SafeState.retryOrFail_safe {s : State} (h : SafeState s) (hq : s.seq = .recv) (v : ValidationError) {r : List Byte}
    (hr : r.length ≤ 32) : SafeState (retryOrFail v (stored r s)) := by
  have hregs := (h.sound.stored hr).withStatus (h.sound.status.setLerr v.code_toNat_le)
  have hb := h.busy_of_seq_ne (by simp [hq])
  simp only [retryOrFail]
  split
  · exact hregs.finishFail_safe
  · next hlast =>
    have hatt : s.att.toNat < 16 := lt_of_le_of_ne h.attempts hlast
    have hback : SoundRegs { stored r s with status := Status.setLerr s.status v.code, seq := .backoff } :=
      ⟨hregs.tx, hregs.rx, hregs.cfg, hregs.status, hregs.dd, hregs.attempts⟩
    exact hback.safe_busy ((Status.busy_setLerr ..).trans hb) nofun
      ⟨h.recvCount hq, hatt, (Status.lerr_setLerr ..).trans_ne v.code_ne_zero⟩ (h.frameHeld hb)
      fun f hf => (Status.sess_setLerr ..).trans (h.sessionHeld hb f hf)

/-- A response that `ChRead` may return leads to a safe state (R183). -/
theorem SafeState.receive_safe {s : State} (h : SafeState s) (hq : s.seq = .recv) {r : List Byte} (hr : r.length ≤ 32) :
    AnswersSafe (receive r s) := by
  obtain ⟨a, c, -, hf⟩ := h.frameHeld (h.busy_of_seq_ne (by simp [hq]))
  rw [receive_fits hr (frame_address hf rfl)]
  split
  · next hv => exact h.sound.finishOk_safe hr hv
  · next v hv => exact .next (h.retryOrFail_safe hq v hr)

/-- `RECV` answers a safe state, also while the channel does not return (R183, R311). -/
theorem SafeState.recvStep_safe {s : State} (h : SafeState s) (hq : s.seq = .recv) : AnswersSafe (recvStep s) := by
  unfold recvStep
  split
  · exact .next h
  · next r rest _ =>
    have hs : SafeState (s.takeAnswer (r.take Config.rdMax) rest) := h.withOutside s.draws _
    exact hs.receive_safe hq (List.length_take_le ..)

/-- `BACKOFF` answers a safe state, also while the timer does not report (R185, R311). -/
theorem SafeState.backoffStep_safe {s : State} (h : SafeState s) (hq : s.seq = .backoff) : AnswersSafe (backoffStep s) := by
  have hb := h.busy_of_seq_ne (by simp [hq])
  obtain ⟨-, hatt, -⟩ := h.backoffCount hq
  rcases backoffStep_cases s with ⟨-, hx⟩ | ⟨left, -, hx⟩ <;> rw [hx]
  · exact .next h
  · have hr := h.sound
    have hregs : SoundRegs { s.takeDelay (Config.backoffUnitMs * s.att.toNat) left with seq := .send } :=
      ⟨hr.tx, hr.rx, hr.cfg, hr.status, hr.dd, hr.attempts⟩
    exact .next (hregs.safe_busy hb nofun hatt (h.frameHeld hb) (h.sessionHeld hb))

/-- Every step of the engine's own answers a safe state. -/
theorem SafeState.engineStep_safe {s : State} (h : SafeState s) : AnswersSafe (engineStep s) := by
  cases hq : s.seq <;> simp only [engineStep, hq]
  case idle => exact .next h
  case send => exact h.sendStep_safe hq
  case recv => exact h.recvStep_safe hq
  case backoff => exact h.backoffStep_safe hq

/-! ### The read port and the step -/

/-- A read that faults is one the spec leaves unspecified (U1 to U5). -/
def UnspecifiedRead (r : Fault) : Prop := r = .unspecifiedResult ∨ r = .unspecifiedBufferByte ∨ r = .readWhileBusy

/-- A result register faults only where it is unspecified (R44, R306). -/
theorem readResult_faults {s : State} {x : ResultReg} {v : Word} {r : Fault} (h : readResult s x v = .error r) : UnspecifiedRead r := by
  rcases readResult_cases s x v with ⟨-, hx⟩ | ⟨-, -, -, hx⟩ | ⟨-, -, hx⟩ <;> cases hx.symm.trans h
  · exact .inr (.inr rfl)
  · exact .inl rfl

/-- A buffer that holds its bytes faults only at or above its length (R34, R35). -/
theorem SoundBuffer.readBuffer_faults {m : Memory} {len : Byte} {i : Nat} {r : Fault} (hm : SoundBuffer m len)
    (h : readBuffer m len i = .error r) : UnspecifiedRead r := by
  obtain ⟨f, hf⟩ := hm.held
  obtain ⟨hl, -⟩ := Memory.readAll_eq_some.mp hf
  rcases readBuffer_cases m len i with ⟨b, -, -, hx⟩ | ⟨hi, -, -⟩ | ⟨-, hx⟩
  · cases hx.symm.trans h
  · obtain ⟨v, hv⟩ := readBuffer_of_readAll hf (hl.symm ▸ hi)
    cases hv.symm.trans h
  · cases hx.symm.trans h
    exact .inr (.inl rfl)

/-- The read port faults only where a register is unspecified (R22). -/
theorem SoundRegs.readReg_faults {s : State} {n : Byte} {r : Fault} (h : SoundRegs s) (hr : readReg n s = .error r) :
    UnspecifiedRead r := by
  rcases readReg_cases n s with ⟨v, hx⟩ | ⟨x, v, hx⟩ | ⟨i, hx⟩ | ⟨i, hx⟩
  · cases hx.symm.trans hr
  · exact readResult_faults (hx.symm.trans hr)
  · exact h.tx.readBuffer_faults (hx.symm.trans hr)
  · exact h.rx.readBuffer_faults (hx.symm.trans hr)

/-- Settles O44: the reset state is idle, and its registers are sound. -/
theorem resetStateIsSafe : Obligations.ResetStateIsSafe :=
  have hbuf : SoundBuffer [] 0 := ⟨rfl, by decide, [], rfl⟩
  have hregs : SoundRegs State.reset := ⟨hbuf, hbuf, rfl, ⟨rfl, by decide, by decide, nofun⟩, by decide, by decide⟩
  hregs.safe_idle rfl rfl

/-- What a step from a safe state can be: it answers a safe state, or is the read of an unspecified register. -/
theorem SafeState.step_safe {s : State} (h : SafeState s) :
    AnswersSafe (step s) ∨
      ∃ n rest r, s.world.host = .readReg n :: rest ∧ step s = .fault r ∧ UnspecifiedRead r := by
  have moved (rest : List HostMove) : SafeState (s.withHost rest) := h.withOutside s.draws { s.world with host := rest }
  cases hh : s.world.host with
  | nil => exact .inl (step_engine hh ▸ h.engineStep_safe)
  | cons m rest =>
    cases m with
    | issue w =>
      left
      cases hb : s.busy with
      | true => exact step_held hb hh ▸ h.engineStep_safe
      | false => exact step_accept hb hh ▸ (moved rest).sound.accept_safe w
    | readReg n =>
      rw [step_readReg hh, readStep]
      cases hr : readReg n (s.withHost rest) with
      | ok v => exact .inl (.next ((moved rest).withOutside s.draws _))
      | error r => exact .inr ⟨n, rest, r, rfl, rfl, (moved rest).sound.readReg_faults hr⟩
    | reset => exact .inl (step_reset hh ▸ .next (resetStateIsSafe.withOutside ..))
    | pass => exact .inl (step_pass hh ▸ (moved rest).engineStep_safe)

/-- Settles O45: by what a step from a safe state can be. -/
theorem everyStepKeepsTheStateSafe : Obligations.EveryStepKeepsTheStateSafe := by
  intro s t h hst
  rcases h.step_safe with ⟨u, hu, hs⟩ | ⟨_, _, _, -, hf, -⟩
  · cases hu.symm.trans hst
    exact hs
  · cases hf.symm.trans hst

/-- Settles O46: by what a step from a safe state can be. -/
theorem onlyUnspecifiedReadsStopTheMachine : Obligations.OnlyUnspecifiedReadsStopTheMachine := by
  intro s h
  rcases h.step_safe with ⟨u, hu, -⟩ | ⟨n, rest, r, hh, hf, hr⟩
  · simp [hu]
  · rw [hf]
    refine ⟨nofun, fun r' hr' => ?_⟩
    cases hr'
    exact ⟨⟨n, rest, hh⟩, hr⟩

end Sys2Proof.Machine

/-! PROOF. The end of an attempt (R183 to R186): what a failed one writes before the last, and what a response that validates ends
with. -/

namespace Sys2Proof.Machine

/-! ### BACKOFF -/

/-- The step of `BACKOFF` once the timer reports (R185). -/
theorem step_backoff {s : State} {left : Nat} (hq : s.seq = .backoff) (hh : s.world.host = []) (ht : s.world.timer = left + 1) :
    step s = .next { s.takeDelay (50 * s.att.toNat) left with seq := .send } := by
  rw [step_engine hh, engineStep_backoff hq, backoffStep, ht]
  rfl

/-- Settles O24: by the step of `BACKOFF`. -/
theorem backoffWaitsFiftyMillisecondsPerAttempt : Obligations.BackoffWaitsFiftyMillisecondsPerAttempt :=
  fun _ _ hq hh ht => step_backoff hq hh ht

/-! ### An attempt fails before the last -/

/-- A failed attempt before the 16th goes to `BACKOFF` with its response and its code stored (R184). -/
theorem step_retries {s : State} {r : List Byte} {rest : List (List Byte)} {a : Byte} {v : ValidationError}
    (hq : s.seq = .recv) (hh : s.world.host = []) (hw : s.world.answers = r :: rest) (hr : r.length ≤ 32)
    (ha : Memory.read s.txbuf 0 = some a) (hv : validate r a s.ics = some v) (hatt : s.att.toNat ≠ 16) :
    step s = .next { failedAttempt v r (s.takeAnswer r rest) with seq := .backoff } := by
  rw [step_failedAttempt hq hh hw hr ha hv]
  exact congrArg Host.Outcome.next (if_neg hatt)

/-- Settles O22: the step stores the response and writes `LERR` and `STATE`. -/
theorem failedAttemptGoesToBackoff : Obligations.FailedAttemptGoesToBackoff := by
  intro s r rest a v hq hh hw hr ha hv hatt
  have hlast : s.att.toNat ≠ 16 := fun h => hatt (BitVec.eq_of_toNat_eq h)
  exact ⟨_, step_retries hq hh hw hr ha hv hlast, stored_response r (s.takeAnswer r rest) hr, toNat_length r.length hr,
    fun j => stored_read_past (s.takeAnswer r rest), Status.lerr_setLerr .., rfl, Status.busy_setLerr .., Status.rv_setLerr ..,
    Status.sess_setLerr .., Status.clf_setLerr .., Status.err_setLerr .., Status.reserved_setLerr .., rfl⟩

/-! ### A response validates -/

/-- The state in which a transaction with the valid response `r` comes to its continuation (R183, R186). -/
def received (r : List Byte) (s : State) : State := { stored r s with plen := (stored r s).rxlen - 3 }

/-- `FinishOK` follows a response that validates (R183). -/
theorem step_valid {s : State} {r : List Byte} {rest : List (List Byte)} {a : Byte} (hq : s.seq = .recv) (hh : s.world.host = [])
    (hw : s.world.answers = r :: rest) (hr : r.length ≤ 32) (ha : Memory.read s.txbuf 0 = some a) (hv : validate r a s.ics = none) :
    step s = finishOk (stored r (s.takeAnswer r rest)) := by
  rw [step_engine hh, engineStep_recv hq, recvStep_answer hw hr ha, hv]

/-- `PLEN` is the length of the response less the address and the CRC (R36, R186). -/
theorem received_plen_toNat {r : List Byte} (s : State) (h3 : 3 ≤ r.length) (hr : r.length ≤ 32) :
    (received r s).plen.toNat = r.length - 3 := by
  have hplen : (received r s).plen = BitVec.ofNat 8 r.length - 3 := rfl
  rw [hplen]
  bv_omega

/-- The payload of a response and its CRC are what follows the address (R157). -/
theorem payloadOf_append {r : List Byte} (h3 : 3 ≤ r.length) : payloadOf r ++ r.drop (r.length - 2) = r.drop 1 := by
  conv => rhs; rw [← List.take_append_drop (r.length - 2) r]
  rw [payloadOf, List.drop_append_of_le_length]
  rw [List.length_take]
  omega

theorem payloadOf_length {r : List Byte} : (payloadOf r).length = r.length - 3 := by
  rw [payloadOf, List.length_drop, List.length_take]
  omega

/-- The bytes of the payload are those of the response after the address (R157). -/
theorem payloadOf_getD {r : List Byte} {k : Nat} (h : k < r.length - 3) : (payloadOf r).getD k 0 = r.getD (k + 1) 0 := by
  have hk : k + 1 < r.length - 2 := by omega
  have hin : k + 1 < r.length := by omega
  simp [payloadOf, hk, hin]

/-- How a transaction that is no measurement ends with a valid response (R186, R241, R242). -/
theorem finishOk_completes {r : List Byte} {s : State} {a : Byte} {ics : Bool} (hr : r.length ≤ 32) (hv : validate r a ics = none)
    (hk : ∀ f, s.cont ≠ .get f) :
    ∃ st o, let t : State := { received r s with status := st, lop := o, seq := .idle }
      finishOk (stored r s) = .next t ∧
      (s.cont = .raw → Completed t 0x02 0 ∧ Status.sess st = Status.sess s.status ∧ Status.clf st = Status.clf s.status) ∧
      (s.cont = .opening → Completed t 0x10 0 ∧ Status.sess st = true ∧ Status.clf st = Status.clf s.status) ∧
      (s.cont = .closing → Completed t 0x11 0 ∧ Status.sess st = false ∧ Status.clf st = false) ∧
      Status.lerr st = Status.lerr s.status ∧ Status.reserved st = Status.reserved s.status := by
  rw [finishOk_stored hr hv]
  cases hc : s.cont with
  | raw =>
    exact ⟨_, _, rfl, fun _ => ⟨completeOk_completed .., by simp [stored], by simp [stored]⟩, nofun, nofun, by simp [stored],
      by simp [stored]⟩
  | opening =>
    exact ⟨_, _, rfl, nofun, fun _ => ⟨completeOk_completed .., by simp [stored], by simp [stored]⟩, nofun, by simp [stored],
      by simp [stored]⟩
  | closing =>
    exact ⟨_, _, rfl, nofun, nofun, fun _ => ⟨completeOk_completed .., by simp [stored], by simp [stored]⟩, by simp [stored],
      by simp [stored]⟩
  | get f => exact absurd hc (hk f)

/-- Settles O25: the step is `FinishOK` on the stored response, whose payload is the part between the address and the CRC. -/
theorem validResponseEndsTheTransaction : Obligations.ValidResponseEndsTheTransaction := by
  intro s r rest a hq hh hw hr ha hv hk
  let u := s.takeAnswer r rest
  have h4 : 4 ≤ r.length := validate_length hv
  obtain ⟨st, o, hfin, hraw, hopening, hclosing, hlerr, hres⟩ := finishOk_completes (s := u) hr hv hk
  have hplen : (received r u).plen.toNat = r.length - 3 := received_plen_toNat u (by omega) hr
  have hpay : (received r u).payload = some (payloadOf r) := stored_payload r u hr h4
  refine ⟨_, (step_valid hq hh hw hr ha hv).trans hfin, stored_response r u hr, toNat_length r.length hr,
    fun j => stored_read_past u, hplen, ?_, ?_, fun p hp => ?_, ?_, hraw, hopening, hclosing, hlerr, hres, rfl⟩
  · exact hplen ▸ (by omega)
  · exact hplen ▸ (by omega)
  · cases hpay.symm.trans hp
    exact (payloadOf_append (by omega)).symm
  · exact Option.isSome_iff_exists.mpr ⟨_, hpay⟩

/-! ### A measurement ends -/

/-- A measurement ends with the decode of its payload (R243). -/
theorem step_measured {s : State} {r : List Byte} {rest : List (List Byte)} {a : Byte} {f : Family} (hq : s.seq = .recv)
    (hk : s.cont = .get f) (hh : s.world.host = []) (hw : s.world.answers = r :: rest) (hr : r.length ≤ 32)
    (ha : Memory.read s.txbuf 0 = some a) (hv : validate r a s.ics = none) :
    step s = .next (completeDecode (Opcode.get f) (received r (s.takeAnswer r rest))
      (decodeFamily f (payloadOf r) (received r (s.takeAnswer r rest)))) := by
  rw [step_valid hq hh hw hr ha hv, finishOk_stored hr hv, State.takeAnswer_cont, hk]
  rfl

/-- The six 3-byte families with their mask, divisor and length (R106, R217). -/
theorem familyLayout_threeByte {f : Family} {mask divisor len : Nat}
    (h : (f, mask, divisor, len) ∈ [(Family.voltage, 0xFF, 100, 9), (.current, 0xFF, 1000, 9), (.realPower, 0x3F, 100, 12),
      (.reactivePower, 0x3F, 100, 12), (.apparentPower, 0x3F, 100, 12), (.powerFactor, 0x3F, 1000, 12)]) :
    (∃ m, Config.familyLayout f = .threeByte m ∧ m.toNat = mask) ∧ (Config.familyDivisor f).toNat = divisor ∧
      (Config.familyLength f).toNat = len ∧ (len = 9 ∨ len = 12) := by
  simp only [List.mem_cons, List.not_mem_nil, or_false, Prod.mk.injEq] at h
  rcases h with h | h | h | h | h | h <;> obtain ⟨rfl, rfl, rfl, rfl⟩ := h <;> exact ⟨⟨_, rfl, rfl⟩, rfl, rfl, by decide⟩

theorem decodeFamily_threeByte {f : Family} {m : Byte} {p : List Byte} (s : State) (hf : Config.familyLayout f = .threeByte m)
    (hp : p.length = (Config.familyLength f).toNat) : decodeFamily f p s = some (decoded3 p m (Config.familyDivisor f) s) := by
  rw [decodeFamily, hf]
  exact decode3_eq_some m _ s hp

/-- A payload of 9 bytes leaves the fourth slot flagged, one of 12 bytes none (R213). -/
theorem flags3_toNat {p : List Byte} (m : Byte) (hp : p.length = 9 ∨ p.length = 12) :
    (flags3 p m).toNat = if p.length = 9 then 8 else 0 := by
  simp only [flags3, slot3_isNone]
  rcases hp with hp | hp <;> rw [hp] <;> rfl

/-- Settles O26: the payload has the family's length, so the step completes with its `Decode3`. -/
theorem measurementDecodesThreeByteRegisters : Obligations.MeasurementDecodesThreeByteRegisters := by
  intro s r rest a f mask divisor len hf hq hk hh hw hr ha hv hlen
  let u := received r (s.takeAnswer r rest)
  obtain ⟨⟨m, hlayout, rfl⟩, hdiv, hflen, h9or12⟩ := familyLayout_threeByte hf
  have hp : (payloadOf r).length = len := payloadOf_length.trans hlen
  let t := decoded3 (payloadOf r) m (Config.familyDivisor f) u
  have hstep : step s = .next (State.completeOk (Opcode.get f) t) := by
    rw [step_measured hq hk hh hw hr ha hv, decodeFamily_threeByte _ hlayout (hp.trans hflen.symm)]
    rfl
  have h4 : 4 ≤ r.length := validate_length hv
  refine ⟨_, hstep, completeOk_completed .., completeOk_keeps (Opcode.get f) t, stored_response r (s.takeAnswer r rest) hr,
    toNat_length r.length hr, (received_plen_toNat _ (by omega) hr).trans hlen, hdiv, fun j => stored_read_past _, fun i hi => ?slot,
    ?flags, rfl⟩
  case slot =>
    have hslot : (State.completeOk (Opcode.get f) t).slot i = t.slot i := by fin_cases i <;> rfl
    rw [hslot, decoded3_slot_toNat m _ u (hp ▸ hi), payloadOf_getD (by omega), payloadOf_getD (by omega), payloadOf_getD (by omega),
      BitVec.toNat_and, Nat.add_comm 1, Nat.add_comm 2, Nat.add_comm 3]
  case flags => exact hp ▸ flags3_toNat m (hp ▸ h9or12)

/-- Settles O27: the payload has 16 bytes, so the step completes with its `Decode4`. -/
theorem measurementDecodesEnergyRegisters : Obligations.MeasurementDecodesEnergyRegisters := by
  intro s r rest a hq hk hh hw hlen ha hv
  let u := received r (s.takeAnswer r rest)
  have hr : r.length ≤ 32 := by omega
  have hp : (payloadOf r).length = 16 := payloadOf_length.trans (by rw [hlen])
  let t := decoded4 (payloadOf r) u
  have hdecode : decodeFamily .energy (payloadOf r) u = some t := decode4_eq_some u hp
  have hstep : step s = .next (State.completeOk (Opcode.get .energy) t) := by
    rw [step_measured hq hk hh hw hr ha hv, hdecode]
    rfl
  refine ⟨_, hstep, completeOk_completed .., completeOk_keeps (Opcode.get .energy) t, stored_response r (s.takeAnswer r rest) hr,
    (toNat_length r.length hr).trans hlen, (received_plen_toNat _ (by omega) hr).trans (by rw [hlen]), rfl, rfl,
    fun j hj => stored_read_past _ (hlen.trans_le hj), fun i => ?_, rfl⟩
  have hslot : (State.completeOk (Opcode.get .energy) t).slot i = t.slot i := by fin_cases i <;> rfl
  have hval := decoded4_slot_toNat (payloadOf r) u i
  rw [payloadOf_getD (by omega), payloadOf_getD (by omega), payloadOf_getD (by omega), payloadOf_getD (by omega)] at hval
  rw [hslot, Nat.add_comm 1, Nat.add_comm 2, Nat.add_comm 3, Nat.add_comm 4]
  exact hval

/-- A payload that has not its family's length does not decode (R220). -/
theorem decodeFamily_eq_none {f : Family} {p : List Byte} (s : State) (h : p.length ≠ (Config.familyLength f).toNat) :
    decodeFamily f p s = none := by
  cases f <;> exact if_neg h

/-- Settles O28: the payload does not decode, and the operation only raises the error. -/
theorem measurementOfWrongLengthIsADecodeError : Obligations.MeasurementOfWrongLengthIsADecodeError := by
  intro s r rest a f hq hk hh hw hr ha hv hlen
  have hp : (payloadOf r).length ≠ (Config.familyLength f).toNat := by
    rw [payloadOf_length]
    cases f <;> exact hlen
  have hstep : step s = .next (State.raise .decodeError (Opcode.get f) (received r (s.takeAnswer r rest))) := by
    rw [step_measured hq hk hh hw hr ha hv, decodeFamily_eq_none _ hp]
    rfl
  exact ⟨_, hstep, raise_completed .decodeError .., raise_keeps .decodeError (Opcode.get f) (received r (s.takeAnswer r rest)),
    stored_response r (s.takeAnswer r rest) hr, toNat_length r.length hr, fun j => stored_read_past _, rfl⟩

end Sys2Proof.Machine

/-! PROOF. Runs of the busy engine (R188 to R191, R305, R311, R313): the port is held, a hang is kept, and a transaction ends after its
attempts. -/

namespace Sys2Proof.Machine

/-! ### The engine does not look at the host's moves -/

/-- The outcome with the host's moves to come replaced. -/
def Result.withHost (h : List HostMove) : Result → Result
  | .next t => .next (t.withHost h)
  | .fault r => .fault r
  | .refused r => .refused r

theorem decodeFamily_withHost (f : Family) (p : List Byte) (s : State) (h : List HostMove) :
    decodeFamily f p (s.withHost h) = (decodeFamily f p s).map (·.withHost h) := by
  unfold decodeFamily decode3 decode4
  split <;> split <;> rfl

theorem completeDecode_withHost (o : Byte) (s : State) (h : List HostMove) (d : Option State) :
    completeDecode o (s.withHost h) (d.map (·.withHost h)) = (completeDecode o s d).withHost h := by
  cases d <;> rfl

theorem finishFail_withHost (s : State) (h : List HostMove) : finishFail (s.withHost h) = (finishFail s).withHost h := by
  unfold finishFail
  rw [State.withHost_cont]
  split <;> rfl

/-- `RetryOrFail` after the last attempt (R184). -/
theorem retryOrFail_last {v : ValidationError} {s : State} (h : s.att.toNat = Config.maxAttempts) :
    retryOrFail v s = finishFail { s with status := Status.setLerr s.status v.code } := if_pos h

/-- `RetryOrFail` before the last attempt (R184). -/
theorem retryOrFail_before {v : ValidationError} {s : State} (h : s.att.toNat ≠ Config.maxAttempts) :
    retryOrFail v s = { s with status := Status.setLerr s.status v.code, seq := .backoff } := if_neg h

theorem retryOrFail_withHost (v : ValidationError) (s : State) (h : List HostMove) :
    retryOrFail v (s.withHost h) = (retryOrFail v s).withHost h := by
  by_cases hatt : s.att.toNat = Config.maxAttempts
  · rw [retryOrFail_last hatt, retryOrFail_last (s := s.withHost h) hatt]
    exact finishFail_withHost { s with status := Status.setLerr s.status v.code } h
  · rw [retryOrFail_before hatt, retryOrFail_before (s := s.withHost h) hatt]
    rfl

theorem getDecode_withHost (f : Family) (s : State) (h : List HostMove) :
    getDecode f (s.withHost h) = Result.withHost h (getDecode f s) := by
  have hpay : (s.withHost h).payload = s.payload := rfl
  unfold getDecode
  rw [hpay]
  cases s.payload with
  | none => rfl
  | some p => simp only [decodeFamily_withHost, completeDecode_withHost, Result.withHost]

theorem finishOk_withHost (s : State) (h : List HostMove) : finishOk (s.withHost h) = Result.withHost h (finishOk s) := by
  cases hk : s.cont <;> simp only [finishOk, State.withHost_cont, hk]
  case get f => exact getDecode_withHost f { s with plen := s.rxlen - 3, cont := .get f } h
  all_goals rfl

theorem receive_withHost {r : List Byte} (hr : r.length ≤ Config.bufMax) (s : State) (h : List HostMove) :
    receive r (s.withHost h) = Result.withHost h (receive r s) := by
  cases ha : Memory.read s.txbuf 0 with
  | none =>
    have hw : 0 + r.length ≤ Config.bufMax := by omega
    simp only [receive, State.withHost_rxbuf, State.withHost_txbuf, Memory.write_fits hw, ha, Result.withHost]
  | some a =>
    have ha' : Memory.read (s.withHost h).txbuf 0 = some a := ha
    have hics : (s.withHost h).ics = s.ics := rfl
    rw [receive_fits hr ha, receive_fits hr ha', hics]
    cases validate r a s.ics with
    | none => exact finishOk_withHost (stored r s) h
    | some v => exact congrArg Host.Outcome.next (retryOrFail_withHost v (stored r s) h)

theorem sendStep_withHost (s : State) (h : List HostMove) : sendStep (s.withHost h) = Result.withHost h (sendStep s) := by
  have hframe : (s.withHost h).frame = s.frame := rfl
  cases hf : s.frame with
  | none => simp only [sendStep, hframe, hf, Result.withHost]
  | some f =>
    rw [sendStep_frame hf, sendStep_frame (hframe.trans hf)]
    rfl

theorem recvStep_withHost (s : State) (h : List HostMove) : recvStep (s.withHost h) = Result.withHost h (recvStep s) := by
  unfold recvStep
  rw [State.withHost_answers]
  cases s.world.answers with
  | nil => rfl
  | cons r rest => exact receive_withHost (List.length_take_le ..) (s.takeAnswer (r.take Config.rdMax) rest) h

theorem backoffStep_withHost (s : State) (h : List HostMove) : backoffStep (s.withHost h) = Result.withHost h (backoffStep s) := by
  unfold backoffStep
  rw [State.withHost_timer]
  cases s.world.timer <;> rfl

/-- The engine's step is the same whatever the host's moves to come are, and leaves them (R305). -/
theorem engineStep_withHost (s : State) (h : List HostMove) : engineStep (s.withHost h) = Result.withHost h (engineStep s) := by
  cases hq : s.seq <;> simp only [engineStep, State.withHost_seq, hq]
  case idle => rfl
  case send => exact sendStep_withHost s h
  case recv => exact recvStep_withHost s h
  case backoff => exact backoffStep_withHost s h

/-- Settles O9: a busy engine takes its own step, which is the one it takes with the port free. -/
theorem issuePortIsHeldWhileBusy : Obligations.IssuePortIsHeldWhileBusy := by
  intro s t w rest hb hh hstep
  have hs : s = (s.withHost []).withHost (.issue w :: rest) := by
    rw [← hh]
    rfl
  have hengine : engineStep (s.withHost []) = .next t := (step_engine rfl).symm.trans hstep
  rw [step_held hb hh]
  conv => lhs; rw [hs]
  rw [engineStep_withHost, hengine]
  rfl

/-! ### Hangs -/

/-- A state that steps to itself is kept for any number of steps. -/
theorem core_run_of_step_self {s : State} (h : step s = .next s) (n : Nat) : Sys2Proof.core.run n s = .next s := by
  induction n with
  | zero => rfl
  | succ n ih => exact (core_run_succ n s s h).trans ih

/-- Settles O30: a hang is a step of the engine to the same state, with the port free or held. -/
theorem hangsAreKept : Obligations.HangsAreKept := by
  intro s n hb hport hhang
  have hengine : engineStep s = .next s := by
    rcases hhang with ⟨hq, hw⟩ | ⟨hq, ht⟩
    · rw [engineStep_recv hq, recvStep_hang hw]
    · rw [engineStep_backoff hq, backoffStep, ht]
  have hstep : step s = .next s := by
    rcases hport with hh | ⟨w, rest, hh⟩
    · exact (step_engine hh).trans hengine
    · exact (step_held hb hh).trans hengine
  exact core_run_of_step_self hstep n

end Sys2Proof.Machine

/-! PROOF. A transaction ends after its attempts (R188, R189, R313): the attempts one after another, each of them the steps of `SEND`,
`RECV` and `BACKOFF`. -/

namespace Sys2Proof.Machine

/-! ### Runs through busy states -/

/-- A run of so many steps whose states are busy, but for the state it leads to. -/
inductive BusyRun : Nat → State → State → Prop
  | done (s : State) : BusyRun 0 s s
  | step {n : Nat} {s u t : State} (hb : s.busy = true) (h : step s = .next u) (hr : BusyRun n u t) : BusyRun (n + 1) s t

theorem BusyRun.run {n : Nat} {s t : State} (h : BusyRun n s t) : Sys2Proof.core.run n s = .next t := by
  induction h with
  | done s => rfl
  | step _ hs _ ih => exact (core_run_succ _ _ _ hs).trans ih

theorem BusyRun.busy {n : Nat} {s t : State} (h : BusyRun n s t) :
    ∀ k < n, ∃ u, Sys2Proof.core.run k s = .next u ∧ u.busy = true := by
  induction h with
  | done s => exact nofun
  | @step n s u t hb hs _ ih =>
    intro k hk
    cases k with
    | zero => exact ⟨s, rfl, hb⟩
    | succ k =>
      obtain ⟨v, hv, hvb⟩ := ih k (Nat.lt_of_succ_lt_succ hk)
      exact ⟨v, (core_run_succ k s u hs).trans hv, hvb⟩

/-! ### The end of a transaction -/

/-- The state `t` in which the transaction of `s` has ended with the response `r`: idle, the request, its attempts and the outside world
kept. -/
structure EndsWith (r : List Byte) (s t : State) : Prop where
  busy : t.busy = false
  seq : t.seq = .idle
  att : t.att = s.att
  frame : t.frame = s.frame
  response : t.response = some r
  world : t.world = s.world

/-- A completion of a state that holds the response ends the transaction. -/
theorem endsWith_of_completed {r : List Byte} {s t : State} {o : Byte} {e : BitVec 4} (hc : Completed t o e) (hatt : t.att = s.att)
    (hframe : t.frame = s.frame) (hresp : t.response = (stored r s).response) (hworld : t.world = s.world) (hr : r.length ≤ 32) :
    EndsWith r s t := by
  obtain ⟨-, -, -, hb, hq⟩ := hc
  exact ⟨hb, hq, hatt, hframe, hresp.trans (stored_response r s hr), hworld⟩

/-- A response that validates ends the transaction, whatever started it (R186). -/
theorem finishOk_endsWith {r : List Byte} {s : State} {a : Byte} {ics : Bool} (hr : r.length ≤ 32) (hv : validate r a ics = none) :
    ∃ t, finishOk (stored r s) = .next t ∧ EndsWith r s t := by
  refine ⟨_, finishOk_stored hr hv, ?_⟩
  split
  · exact endsWith_of_completed (completeOk_completed ..) rfl rfl rfl rfl hr
  · exact endsWith_of_completed (completeOk_completed ..) rfl rfl rfl rfl hr
  · exact endsWith_of_completed (completeOk_completed ..) rfl rfl rfl rfl hr
  · next f _ =>
    generalize hd : decodeFamily f (payloadOf r) _ = d
    cases d with
    | none => exact endsWith_of_completed (raise_completed .decodeError ..) rfl rfl rfl rfl hr
    | some u =>
      rw [(decodeFamily_frame hd).1]
      exact endsWith_of_completed (completeOk_completed ..) rfl rfl rfl rfl hr

/-- The last failed attempt ends the transaction, whatever started it (R187). -/
theorem finishFail_endsWith {r : List Byte} (v : ValidationError) (s : State) (hr : r.length ≤ 32) :
    EndsWith r s (finishFail (failedAttempt v r s)) := by
  have hc := finishFail_completed (failedAttempt v r s)
  have heq := finishFail_eq (failedAttempt v r s)
  refine endsWith_of_completed hc ?_ ?_ ?_ ?_ hr <;> rw [heq] <;> rfl

/-- An attempt whose response validates, or the 16th, ends the transaction in its `RECV` step (R183, R184). -/
theorem step_recv_ends {s : State} {r : List Byte} {rest : List (List Byte)} {a : Byte} (hq : s.seq = .recv) (hh : s.world.host = [])
    (hw : s.world.answers = r :: rest) (hr : r.length ≤ 32) (ha : Memory.read s.txbuf 0 = some a)
    (hend : s.att.toNat = 16 ∨ validate r a s.ics = none) :
    ∃ t, step s = .next t ∧ EndsWith r (s.takeAnswer r rest) t := by
  cases hv : validate r a s.ics with
  | none =>
    rw [step_valid hq hh hw hr ha hv]
    exact finishOk_endsWith hr hv
  | some v =>
    have hlast : s.att.toNat = 16 := hend.resolve_right (by simp [hv])
    rw [step_failedAttempt hq hh hw hr ha hv]
    exact ⟨_, congrArg Host.Outcome.next (if_pos hlast), finishFail_endsWith v _ hr⟩

/-! ### The attempts -/

/-- The answers to the attempts of a transaction from address `a` that has made `k` of them: each but the last fails a check, and the last
validates or is the 16th (R184, R188). -/
inductive Attempts (a : Byte) (ics : Bool) : Nat → List (List Byte) → Prop
  | last {k : Nat} {r : List Byte} (hr : r.length ≤ 32) (hk : k < 16) (hend : k + 1 = 16 ∨ validate r a ics = none) :
    Attempts a ics k [r]
  | more {k : Nat} {r : List Byte} {rs : List (List Byte)} (hr : r.length ≤ 32) (hk : k + 1 < 16) (hv : validate r a ics ≠ none)
    (h : Attempts a ics (k + 1) rs) : Attempts a ics k (r :: rs)

/-- A list of answers with its failures before its last is one of attempts. -/
theorem attempts_of_list {a : Byte} {ics : Bool} (rs : List (List Byte)) : ∀ k, rs ≠ [] → k + rs.length ≤ 16 →
    (∀ r ∈ rs, r.length ≤ 32) → (∀ r ∈ rs.dropLast, validate r a ics ≠ none) →
    (k + rs.length = 16 ∨ ∃ r, rs.getLast? = some r ∧ validate r a ics = none) → Attempts a ics k rs := by
  induction rs with
  | nil => exact fun _ hne => absurd rfl hne
  | cons r rs ih =>
    intro k _ hk hlen hfail hend
    have hr : r.length ≤ 32 := hlen r List.mem_cons_self
    cases rs with
    | nil => exact .last hr hk (by simpa using hend)
    | cons r' rs =>
      simp only [List.length_cons] at hk hend ih
      rw [List.dropLast_cons_cons] at hfail
      rw [List.getLast?_cons_cons] at hend
      exact .more hr (by omega) (hfail r List.mem_cons_self)
        (ih (k + 1) (by simp) (by omega) (fun x hx => hlen x (List.mem_cons_of_mem r hx))
          (fun x hx => hfail x (List.mem_cons_of_mem r hx)) (hend.imp_left (by omega)))

/-- The wait before an attempt when `k` attempts came before it (R185). -/
def waitBefore (k : Nat) : List Event := if k = 0 then [] else [.delay (50 * k)]

/-- The events of an attempt and of those after it, newest first. -/
theorem attemptEvents_reverse (f : List Byte) (k : Nat) (r : List Byte) (rs : List (List Byte)) (past : List Event) :
    (attemptEvents f k (r :: rs)).reverse ++ past =
      (attemptEvents f (k + 1) rs).reverse ++ (.chRead r :: .chWrite f :: (waitBefore k ++ past)) := by
  have hwait : (waitBefore k).reverse = waitBefore k := by
    unfold waitBefore
    split <;> rfl
  rw [attemptEvents, ← waitBefore]
  simp [hwait]

/-- A transaction with the frame `f` in `SEND`, with `k` attempts made and the events `past` before its last wait. -/
structure Sending (f : List Byte) (a : Byte) (ics : Bool) (k : Nat) (past : List Event) (s : State) : Prop where
  busy : s.busy = true
  host : s.world.host = []
  seq : s.seq = .send
  frame : s.frame = some f
  address : Memory.read s.txbuf 0 = some a
  mode : s.ics = ics
  att : s.att.toNat = k
  events : s.world.events = waitBefore k ++ past

/-- The end of a transaction with the frame `f` after `k` attempts and then those with the answers `rs`, of a timer that then had
`reports` more to give. -/
structure Ended (f : List Byte) (k : Nat) (rs rest : List (List Byte)) (past : List Event) (reports : Nat) (t : State) : Prop where
  busy : t.busy = false
  seq : t.seq = .idle
  att : t.att.toNat = k + rs.length
  response : t.response = rs.getLast?
  frame : t.frame = some f
  events : t.world.events = (attemptEvents f k rs).reverse ++ past
  answers : t.world.answers = rest
  timer : t.world.timer + rs.length = reports + 1

section
variable {f : List Byte} {a : Byte} {ics : Bool} {k : Nat} {past : List Event} {s : State} (h : Sending f a ics k past s)
include h

/-- The `SEND` step of an attempt (R182). -/
theorem Sending.step_send : step s = .next (sendFrame f s) := by
  rw [step_engine h.host, engineStep_send h.seq, sendStep_frame h.frame]

theorem Sending.sendFrame_att (hk : k < 16) : (sendFrame f s).att.toNat = k + 1 := by
  have hatt := h.att
  rw [Machine.sendFrame_att]
  bv_omega

/-- The last attempt takes two steps (R189). -/
theorem Sending.last_run {r : List Byte} {rest : List (List Byte)} (hk : k < 16) (hw : s.world.answers = r :: rest) (hr : r.length ≤ 32)
    (hend : k + 1 = 16 ∨ validate r a ics = none) : ∃ t, BusyRun 2 s t ∧ Ended f k [r] rest past s.world.timer t := by
  have hatt := h.sendFrame_att hk
  have hend' : (sendFrame f s).att.toNat = 16 ∨ validate r a (sendFrame f s).ics = none := hend.imp hatt.trans (h.mode ▸ ·)
  obtain ⟨t, ht, he⟩ := step_recv_ends (s := sendFrame f s) rfl h.host hw hr h.address hend'
  refine ⟨t, .step h.busy h.step_send (.step h.busy ht (.done t)), he.busy, he.seq, ?_, he.response, he.frame.trans h.frame, ?_, ?_, ?_⟩
  · exact (congrArg BitVec.toNat he.att).trans hatt
  · rw [attemptEvents_reverse, ← h.events, he.world]
    rfl
  · rw [he.world]
    rfl
  · rw [he.world]
    rfl

/-- An attempt before the last takes three steps and leads to `SEND` again (R189). -/
theorem Sending.failed_run {r : List Byte} {rest : List (List Byte)} {left : Nat} (hk : k + 1 < 16) (hw : s.world.answers = r :: rest)
    (hr : r.length ≤ 32) (hv : validate r a ics ≠ none) (ht : s.world.timer = left + 1) :
    ∃ u, (∀ n t, BusyRun n u t → BusyRun (n + 3) s t) ∧
      Sending f a ics (k + 1) (.chRead r :: .chWrite f :: (waitBefore k ++ past)) u ∧
      u.world.answers = rest ∧ u.world.timer = left := by
  have hatt := h.sendFrame_att (by omega)
  have hfirst : (sendFrame f s).att.toNat ≠ 16 := by omega
  obtain ⟨v, hv'⟩ := Option.ne_none_iff_exists'.mp hv
  have hcheck : validate r a (sendFrame f s).ics = some v := h.mode ▸ hv'
  have hrecv := step_retries (s := sendFrame f s) rfl h.host hw hr h.address hcheck hfirst
  have hback := step_backoff (s := { failedAttempt v r ((sendFrame f s).takeAnswer r rest) with seq := .backoff }) rfl h.host ht
  have hbusy : Status.busy (Status.setLerr s.status v.code) = true := (Status.busy_setLerr ..).trans h.busy
  refine ⟨_, fun n t hrun => .step h.busy h.step_send (.step h.busy hrecv (.step hbusy hback hrun)),
    ⟨hbusy, h.host, rfl, h.frame, h.address, h.mode, hatt, ?_⟩, rfl, rfl⟩
  have hwait : waitBefore (k + 1) = [.delay (50 * (sendFrame f s).att.toNat)] := by
    rw [hatt]
    rfl
  rw [hwait, ← h.events]
  rfl

end

/-- The attempts of a transaction, as they run until it ends (R188, R189): three steps for each, but for the accept step. -/
theorem Attempts.run {f : List Byte} {a : Byte} {ics : Bool} {k : Nat} {rs rest : List (List Byte)} (h : Attempts a ics k rs) :
    ∀ {past : List Event} {s : State}, Sending f a ics k past s → s.world.answers = rs ++ rest → rs.length ≤ s.world.timer + 1 →
      ∃ n t, n + 1 = 3 * rs.length ∧ BusyRun n s t ∧ Ended f k rs rest past s.world.timer t := by
  induction h with
  | last hr hk hend =>
    intro past s hs hw _
    obtain ⟨t, hrun, ht⟩ := hs.last_run hk hw hr hend
    exact ⟨2, t, rfl, hrun, ht⟩
  | @more k r rs hr hk hv hrest ih =>
    intro past s hs hw ht
    have hpos : 0 < rs.length := by cases hrest <;> simp
    rw [List.length_cons] at ht
    obtain ⟨left, hleft⟩ : ∃ left, s.world.timer = left + 1 := Nat.exists_eq_add_one.mpr (by omega)
    obtain ⟨u, hlead, hu, hwu, htu⟩ := hs.failed_run hk hw hr hv hleft
    obtain ⟨n, t, hn, hrun, he⟩ := ih hu hwu (by omega)
    refine ⟨n + 3, t, by rw [List.length_cons]; omega, hlead n t hrun, he.busy, he.seq, ?_, ?_, he.frame, ?_, he.answers, ?_⟩
    · rw [he.att, List.length_cons]
      omega
    · rw [he.response, List.getLast?_cons_of_ne_nil (List.length_pos_iff.mp hpos)]
    · rw [he.events, attemptEvents_reverse]
    · have htimer := he.timer
      rw [List.length_cons]
      omega

/-- The accept step of an operation with a transaction leads to its first attempt (R181). -/
theorem sending_started {c : List Byte} {s : State} (a : Byte) (k : Cont) (hc : c.length ≤ 29) (hh : s.world.host = []) :
    Sending (a :: c ++ sentCrc (a :: c)) a s.ics 0 s.world.events (started a c k s) := by
  have hframe := started_frame a c k s hc
  obtain ⟨hbusy, -⟩ := started_status a c k s
  exact ⟨hbusy, hh, rfl, requestFrame_eq_sentCrc a c ▸ hframe, frame_address hframe (requestFrame_head a c), rfl, rfl, rfl⟩

/-- Settles O29: the accept step leads to the first attempt, and the attempts run until the last. -/
theorem transactionEndsAfterItsAttempts : Obligations.TransactionEndsAfterItsAttempts := by
  intro s w i a c k rs rest hb hh hi htr hw h1 h16 ht hlen hfail hend
  have hne : rs ≠ [] := List.length_pos_iff.mp h1
  have htr' : transactionOf (s.withHost []) i = some (a, c, k) := by rw [← htr]; cases i <;> rfl
  have hstart : step s = .next (started a c k (s.withHost [])) :=
    (stepRunsTheDecodedWord s w [] i hb hh hi).trans (exec_started htr')
  have hattempts : Attempts a s.ics 0 rs := attempts_of_list rs 0 hne (by omega) hlen hfail (by rwa [Nat.zero_add])
  obtain ⟨n, t, hn, hrun, he⟩ := hattempts.run (sending_started a k (exec_of_transactionOf htr).1 (s := s.withHost []) rfl) hw ht
  rw [← hn]
  refine ⟨⟨t, (core_run_succ n s _ hstart).trans hrun.run, he.busy, he.seq, by rw [he.att, Nat.zero_add], he.response, he.frame,
    he.events, he.answers, he.timer⟩, fun m hm hmn => ?_⟩
  obtain ⟨m, rfl⟩ := Nat.exists_eq_add_one.mpr hm
  obtain ⟨u, hu, hub⟩ := hrun.busy m (Nat.lt_of_succ_lt_succ hmn)
  exact ⟨u, (core_run_succ m s _ hstart).trans hu, hub⟩

end Sys2Proof.Machine
